-- ==== Sys2Proof/Word.lean ====
section
/-! DEFINITION. The value types of the hasher (00_scope.md R8, R10, R16): unsigned bit vectors, whose
`+`, `-` and `*` wrap at their width (R11). -/

namespace Sys2Proof

/-- A message byte (R8); also the width of the command byte (30_encoding.md R60). -/
abbrev Byte := BitVec 8

/-- `u32`: a SHAKE32 lane, seed or digest, a STIR running hash (R8). -/
abbrev Word32 := BitVec 32

/-- `u64`: a SHAKE64 lane, seed or digest, and every operand field of a request (R8, R10). -/
abbrev Word64 := BitVec 64

/-- The 32-bit lane file `s32[0..3]` (10_state.md R20). -/
abbrev Lanes32 := Vector Word32 4

/-- The 64-bit lane file `s64[0..11]` (10_state.md R21). -/
abbrev Lanes64 := Vector Word64 12

end Sys2Proof
end

