-- ==== Sys2Proof/Syntax.lean ====
section
/-! DEFINITION. The commands, the request that carries one, the raw fields of the command byte, and the
written forms of 30_encoding.md R71 and R72. -/

namespace Sys2Proof

/-- The ten commands of 00_scope.md R3, one constructor per row of the opcode map (30_encoding.md R62).
A command byte holds no operand (R61), so neither does a constructor: operands are fields of the request
(R63). SHAKE64 has the free bit DUAL (R65). -/
inductive Instr where
  | shake32
  | shake64 (dual : Bool)
  | stir
  | rotl32
  | combine32
  | mix32
  | scramble32
  | rotl64
  | mix64
  | scramble64
  deriving DecidableEq, Repr

/-- The operand formats of 30_encoding.md R63: which request fields a command reads. -/
inductive Format where
  /-- `addr`, `len`, `seed` -/
  | h
  /-- `a`, `b`, `g` -/
  | p2
  /-- `a` -/
  | p1
  /-- `a`, `b` -/
  | pr
  deriving DecidableEq, Repr

/-- A request (10_state.md R31): the command byte and the operand fields, all captured at acceptance. -/
structure Request where
  /-- command byte, 30_encoding.md R60 -/
  cmd : Byte
  /-- byte address of the first message byte -/
  addr : Word64
  /-- message length in bytes -/
  len : Word64
  /-- seed of SHAKE32 and SHAKE64, running hash of STIR -/
  seed : Word64
  /-- lane operand, value to scramble or to rotate -/
  a : Word64
  /-- word operand, rotate amount -/
  b : Word64
  /-- guard increment -/
  g : Word64
  deriving DecidableEq, Repr, Inhabited

/-- The three fields of a command byte (30_encoding.md R60), before any check. -/
structure CmdFields where
  /-- `cmd[3:0]` -/
  op : BitVec 4
  /-- `cmd[4]` -/
  dual : Bool
  /-- `cmd[7:5]`, must be 0 -/
  rsv : BitVec 3
  deriving DecidableEq, Repr

/-- Why a command byte is reserved (30_encoding.md R66), in the order R73 looks. -/
inductive Reserved where
  /-- `cmd[7:5] != 0` -/
  | rsvNotZero
  /-- `OP` is in no row of R62: 0, 9, 12 to 15 -/
  | noSuchOperation
  /-- `DUAL = 1` and `OP != 2` -/
  | dualNotShake64
  deriving DecidableEq, Repr

/-- One row of the opcode map (30_encoding.md R62): the row selects a byte `c` when
`c & mask = pattern`. -/
structure OpRow where
  mnemonic : String
  pattern : Byte
  mask : Byte
  format : Format
  deriving DecidableEq, Repr

/-- A command as 30_encoding.md R71 writes it: its lower-case mnemonic and its operands in R63's order. -/
inductive Asm where
  | shake32 (addr len seed : Word64)
  | shake64 (addr len seed : Word64)
  /-- written `shake64.d` -/
  | shake64d (addr len seed : Word64)
  | stir (addr len hash : Word64)
  | rotl32 (a r : Word64)
  | combine32 (a b g : Word64)
  | mix32 (a b g : Word64)
  | scramble32 (a : Word64)
  | rotl64 (a r : Word64)
  | mix64 (a b g : Word64)
  | scramble64 (a : Word64)
  deriving DecidableEq, Repr

/-- The pseudo-commands of 30_encoding.md R72. -/
inductive Pseudo where
  /-- `combine32 a, b` -/
  | combine32 (a b : Word64)
  /-- `mix32 a, b` -/
  | mix32 (a b : Word64)
  /-- `mix64 a, b` -/
  | mix64 (a b : Word64)
  /-- `shake64d addr, len, seed` -/
  | shake64d (addr len seed : Word64)
  deriving DecidableEq, Repr

end Sys2Proof
end

