-- ==== Sys2Proof/Machine/Regs.lean ====
section
/-! DEFINITION. The registers a command in progress holds (10_state.md R26). -/

namespace Sys2Proof.Machine

/-- The command registers (10_state.md R20, R21, R24, R26). -/
structure Regs where
  /-- the captured request, R31 -/
  captured : Request
  /-- the message cursor's byte offset, R24 -/
  pos : Word64
  /-- the 32-bit lane file, R20 -/
  s32 : Lanes32
  /-- the 64-bit lane file, R21 -/
  s64 : Lanes64
  /-- the guard term computed at INIT (41_shake32.md R91, in the low 32 bits; 43_shake64.md R131); log 21 -/
  gd : Word64
  /-- the STIR accumulator (44_stir.md R150) -/
  h : Word32
  /-- the temporary that holds the second digest from DUAL to FINAL (43_shake64.md R138, R139); log 11 -/
  d2 : Word64
  deriving DecidableEq, Repr, Inhabited

end Sys2Proof.Machine
end

