-- ==== Sys2Proof/Config.lean ====
section
/-! DEFINITION. What a build of the hasher fixes (00_scope.md R12, R13; 10_state.md R28), and the free values
of what the spec leaves unspecified. The spec gives no value for any parameter, so the build's configuration
is an opaque constant: nothing can be proved of its values (log 7). -/

namespace Sys2Proof

/-- The build-time configuration: `GUARD_EN` (00_scope.md R12) and the parameters of R13. A side condition
the spec states of a parameter is in `Config.wf`, not in its type (log 7). -/
structure Config where
  /-- `GUARD_EN`: hash-flooding protection is on -/
  guardEn : Bool
  /-- `C32[0..3]`, SHAKE32 initial lanes -/
  c32 : Lanes32
  /-- `M1`, COMBINE32 word multiplier, odd -/
  m1 : Word32
  /-- `M2`, COMBINE32 lane multiplier, odd -/
  m2 : Word32
  /-- `mix32`, an open function of its two arguments (40_primitives32.md R83) -/
  mix32 : Word32 → Word32 → Word32
  /-- `SR1`, SCRAMBLE32 shift, 1 to 31 (R85) -/
  sr1 : BitVec 5
  /-- `SM1`, SCRAMBLE32 multiplier -/
  sm1 : Word32
  /-- `SR2`, SCRAMBLE32 shift, 1 to 31 -/
  sr2 : BitVec 5
  /-- `SM2`, SCRAMBLE32 multiplier -/
  sm2 : Word32
  /-- `SR3`, SCRAMBLE32 shift, 1 to 31 -/
  sr3 : BitVec 5
  /-- `K64[0..11]`, SHAKE64 initial lanes -/
  k64 : Lanes64
  /-- `round64`, an open function of lanes, block words and guard term (42_primitives64.md R118) -/
  round64 : Lanes64 → Lanes64 → Word64 → Lanes64
  /-- `P1`, MIX64 first multiplier -/
  p1 : Word64
  /-- `P2`, MIX64 second multiplier -/
  p2 : Word64
  /-- `cond64_src`, the source lanes of the SHAKE64 condensation (R121) -/
  cond64Src : List (Fin 12)
  /-- `Q1`, SCRAMBLE64 multiplier, odd -/
  q1 : Word64
  deriving Inhabited

/-- The configuration of the modelled build. No value of it is known (log 7). -/
opaque Config.build : Config

/-- FREE VALUE (log 8). The contents of the command registers where the spec calls them unspecified
(10_state.md R22, R35; 60_exceptions.md R164; 70_reset_and_hazards.md R180), for each value of the model's
counter. -/
opaque Config.unspecified : Nat → Machine.Regs

/-- FREE VALUE (log 12). The moment at which a byte whose answer changes during a command is read, which the
spec does not fix (20_memory.md R54), for each command (the model's counter) and address: how far back, among
the answers given since acceptance. -/
opaque Config.moment : Nat → Word64 → Nat

end Sys2Proof
end

