-- ==== Sys2Proof/Machine/State.lean ====
section
/-! DEFINITION. The machine's state: the hasher, the message memory it reads, the moves still to come, and
the fields the model keeps for itself. Plain data. -/

namespace Sys2Proof.Machine

/-- The phases of a command (10_state.md R25). -/
inductive Phase where
  | idle
  | init
  | bulk
  | lenfold
  | condense
  | words
  | bytes
  | dual
  | final
  /-- the one computing step of a primitive command (R25, the paragraph under the table); log 22 -/
  | compute
  deriving DecidableEq, Repr

/-- A response (30_encoding.md R68). A field the spec leaves unspecified is absent (log 14); `d2v` is
`digest2.isSome`. -/
structure Response where
  /-- 0, or a fault code (60_exceptions.md R161) -/
  err : BitVec 2
  /-- the result; absent on a fault -/
  digest : Option Word64
  /-- the second digest; absent unless the command was SHAKE64 with DUAL = 1 -/
  digest2 : Option Word64
  /-- fault information; absent on a good response -/
  info : Option Word64
  deriving DecidableEq, Repr

/-- One move still to come (log 3). The host's moves are those of 10_state.md R30, R33 and
70_reset_and_hazards.md R180; `hasher` and `phase` give the hasher a turn at the normative grain (one whole
command, R30) or at the grain of the phase machine (R25), log 2. -/
inductive Turn where
  /-- the hasher moves; an idle one runs a whole command -/
  | hasher
  /-- the hasher moves; an idle one only accepts, and later moves run one phase each -/
  | phase
  /-- the host presents a request -/
  | present (q : Request)
  /-- the host takes the response -/
  | take
  /-- reset is applied -/
  | reset
  /-- the host writes a byte of message memory -/
  | write (addr : Word64) (b : Byte)
  /-- the platform stops answering an address -/
  | unmap (addr : Word64)
  deriving DecidableEq, Repr

/-- Message memory (20_memory.md R40): the addresses the platform answers, each with its byte, addresses
strictly rising. An address not listed is one the platform refuses (R51; log 6). -/
abbrev Memory := List Host.Cell

/-- The machine. INVENTORY.md, heading State, says where the spec names each field. -/
structure State where
  /-- the phase; `busy` is `phase ≠ idle` (10_state.md R25, R29) -/
  phase : Phase
  /-- the registers of the command in progress (R26) -/
  regs : Regs
  /-- the request channel (R30) -/
  request : Option Request
  /-- the response channel (R30) -/
  response : Option Response
  /-- message memory, the host's (R33) -/
  mem : Memory
  /-- the moves still to come, the model's own (log 3) -/
  turns : List Turn
  /-- the responses the host has taken, oldest first, the model's own (log 13) -/
  received : List Response
  /-- the bytes read so far with their addresses, oldest first, the model's own (log 13) -/
  reads : List (Word64 × Byte)
  /-- a fault response has been emitted in this run, the model's own (60_exceptions.md R173; log 13) -/
  faulted : Bool
  /-- the counter of free values, the model's own (log 8) -/
  freeCount : Nat
  /-- the answers that addresses of the message gave before a change made since acceptance, newest first, the
  model's own (20_memory.md R54; log 12) -/
  held : List (Word64 × Option Byte)
  deriving DecidableEq, Repr

/-- Why the MODEL stops. The hardware's own faults are responses, not stops (60_exceptions.md R164). -/
inductive Fault where
  /-- Raised by the phase machine in a busy state whose phase is no phase of the captured command. No state
  with the invariant `MachineInv` is one (10_state.md R25). Safe: the model stops (log 17). -/
  | noSuchPhase
  deriving DecidableEq, Repr

/-- What the model declines. -/
inductive Refusal where
  /-- Raised by an arm of `exec` whose instruction has no meaning yet. Safe: the model stops. -/
  | notModelled (mnemonic : String)
  deriving DecidableEq, Repr

/-- The command registers at `State.reset`: all zero. The spec leaves them unspecified (10_state.md R35);
DESIGN CHOICE, log 9. -/
def Regs.zero : Regs :=
  { captured := { cmd := 0, addr := 0, len := 0, seed := 0, a := 0, b := 0, g := 0 }
    pos := 0
    s32 := Vector.replicate 4 0
    s64 := Vector.replicate 12 0
    gd := 0
    h := 0
    d2 := 0 }

/-- The machine right after reset (10_state.md R35; 70_reset_and_hazards.md R180): idle, both channels empty,
no address answered yet (log 6), no move to come (log 15). -/
def State.reset : State :=
  { phase := .idle
    regs := Regs.zero
    request := none
    response := none
    mem := []
    turns := []
    received := []
    reads := []
    faulted := false
    freeCount := 0
    held := [] }

/-- The outcome of one step of this machine. -/
abbrev Result := Host.Outcome State Fault Refusal

end Sys2Proof.Machine
end

