-- ==== Sys2Proof/Machine/Flags.lean ====
section
/-! DEFINITION. The hasher has no condition codes or status flags (10_state.md R27): no operation records
carry or overflow (00_scope.md R11). The only status a host sees is the response's `err` field and the busy
bit, which are here. -/

namespace Sys2Proof.Machine

/-- The three faults of the hardware (60_exceptions.md R161). -/
inductive HwFault where
  | illegalCommand
  | addrWrap
  | msgAccessFault
  deriving DecidableEq, Repr

/-- The `err` code of a fault (60_exceptions.md R161). -/
def HwFault.code : HwFault → BitVec 2
  | .illegalCommand => 1
  | .addrWrap => 2
  | .msgAccessFault => 3

/-- `respond(d)`: a good response with one digest (30_encoding.md R68). -/
def Response.good (d : Word64) : Response :=
  { err := 0, digest := some d, digest2 := none, info := none }

/-- `respond(d, d2)`: a good response with two digests (30_encoding.md R68). -/
def Response.goodDual (d d2 : Word64) : Response :=
  { err := 0, digest := some d, digest2 := some d2, info := none }

/-- The response of `raise F(x)` (60_exceptions.md R164). -/
def Response.fault (f : HwFault) (info : Word64) : Response :=
  { err := f.code, digest := none, digest2 := none, info := some info }

/-- The `d2v` bit of a response (30_encoding.md R68). -/
def Response.d2v (p : Response) : Bool := p.digest2.isSome

/-- `busy` (10_state.md R29): the same fact as `phase != IDLE`. -/
def State.busy (s : State) : Bool := s.phase != .idle

/-- Acceptance is enabled: the hasher is idle and no response waits to be taken (10_state.md R29;
70_reset_and_hazards.md R186; log 5). -/
def State.ready (s : State) : Bool := !s.busy && s.response.isNone

end Sys2Proof.Machine
end

