-- ==== Sys2Proof/WellFormed.lean ====
section
/-! DEFINITION. The checks the spec states of data: which command bytes are legal (30_encoding.md R60, R62,
R66), and the side conditions of the configuration (00_scope.md R13; 93_implementation_defined.md U5). -/

namespace Sys2Proof

/-- `OP` selects a row of the opcode map (30_encoding.md R62). -/
def CmdFields.opKnown (f : CmdFields) : Bool :=
  [1, 2, 3, 4, 5, 6, 7, 8, 10, 11].contains f.op.toNat

/-- `RSV` is 0 (30_encoding.md R60). -/
def CmdFields.rsvZero (f : CmdFields) : Bool := f.rsv == 0

/-- `DUAL` is legal only with `OP = 2` (30_encoding.md R60). -/
def CmdFields.dualAllowed (f : CmdFields) : Bool := !f.dual || f.op == 2

/-- The byte is one of the eleven legal ones (30_encoding.md R66). -/
def CmdFields.wf (f : CmdFields) : Bool := f.rsvZero && f.opKnown && f.dualAllowed

/-- `M1`, `M2` and `Q1` are odd (00_scope.md R13). -/
def Config.oddMultipliers (c : Config) : Bool :=
  c.m1.getLsbD 0 && c.m2.getLsbD 0 && c.q1.getLsbD 0

/-- `SR1`, `SR2`, `SR3` are 1 to 31 (40_primitives32.md R85). -/
def Config.shiftsInRange (c : Config) : Bool :=
  c.sr1 != 0 && c.sr2 != 0 && c.sr3 != 0

/-- `cond64_src` lists five distinct lanes, none of them 0 or 2 (42_primitives64.md R121). -/
def Config.sourcesAllowed (c : Config) : Bool :=
  c.cond64Src.length == 5 && decide c.cond64Src.Nodup && c.cond64Src.all fun j => j != 0 && j != 2

/-- The side conditions of the configuration (93_implementation_defined.md U5). -/
def Config.wf (c : Config) : Bool := c.oddMultipliers && c.shiftsInRange && c.sourcesAllowed

end Sys2Proof
end

