-- ==== Sys2Proof/Decode.lean ====
section
/-! DEFINITION. The command byte: decoding, encoding, the opcode map as a table, and the written forms. -/

namespace Sys2Proof

/-- The fields of a command byte (30_encoding.md R60). -/
def cmdFields (c : Byte) : CmdFields :=
  { op := c.extractLsb' 0 4, dual := c.getLsbD 4, rsv := c.extractLsb' 5 3 }

/-- The row `OP` selects in the opcode map (30_encoding.md R62), with the DUAL bit where the row has it. -/
def rowOf (op : BitVec 4) (dual : Bool) : Option Instr :=
  match op.toNat with
  | 1 => some .shake32
  | 2 => some (.shake64 dual)
  | 3 => some .stir
  | 4 => some .rotl32
  | 5 => some .combine32
  | 6 => some .mix32
  | 7 => some .scramble32
  | 8 => some .rotl64
  | 10 => some .mix64
  | 11 => some .scramble64
  | _ => none

/-- Decoding of a command byte, total, in the order of 30_encoding.md R73; a reserved byte is named by the
reason (R66). -/
def decode (c : Byte) : Except Reserved Instr :=
  let f := cmdFields c
  if f.rsv ≠ 0 then .error .rsvNotZero
  else
    match rowOf f.op f.dual with
    | none => .error .noSuchOperation
    | some i => if f.dual && f.op != 2 then .error .dualNotShake64 else .ok i

/-- The command byte of a command (30_encoding.md R62, R71). -/
def encode : Instr → Byte
  | .shake32 => 0x01
  | .shake64 false => 0x02
  | .shake64 true => 0x12
  | .stir => 0x03
  | .rotl32 => 0x04
  | .combine32 => 0x05
  | .mix32 => 0x06
  | .scramble32 => 0x07
  | .rotl64 => 0x08
  | .mix64 => 0x0A
  | .scramble64 => 0x0B

/-- The operand format of a command (30_encoding.md R62, R63). -/
def Instr.format : Instr → Format
  | .shake32 => .h
  | .shake64 _ => .h
  | .stir => .h
  | .rotl32 => .pr
  | .combine32 => .p2
  | .mix32 => .p2
  | .scramble32 => .p1
  | .rotl64 => .pr
  | .mix64 => .p2
  | .scramble64 => .p1

/-- The mnemonic of a command in the opcode map (30_encoding.md R62). -/
def Instr.mnemonic : Instr → String
  | .shake32 => "SHAKE32"
  | .shake64 _ => "SHAKE64"
  | .stir => "STIR"
  | .rotl32 => "ROTL32"
  | .combine32 => "COMBINE32"
  | .mix32 => "MIX32"
  | .scramble32 => "SCRAMBLE32"
  | .rotl64 => "ROTL64"
  | .mix64 => "MIX64"
  | .scramble64 => "SCRAMBLE64"

/-- The opcode map as the spec prints it (30_encoding.md R62). `decode` does not use it; that the two agree
is a statement. -/
def opRows : List OpRow :=
  [ ⟨"SHAKE32", 0x01, 0xFF, .h⟩, ⟨"SHAKE64", 0x02, 0xEF, .h⟩, ⟨"STIR", 0x03, 0xFF, .h⟩,
    ⟨"ROTL32", 0x04, 0xFF, .pr⟩, ⟨"COMBINE32", 0x05, 0xFF, .p2⟩, ⟨"MIX32", 0x06, 0xFF, .p2⟩,
    ⟨"SCRAMBLE32", 0x07, 0xFF, .p1⟩, ⟨"ROTL64", 0x08, 0xFF, .pr⟩, ⟨"MIX64", 0x0A, 0xFF, .p2⟩,
    ⟨"SCRAMBLE64", 0x0B, 0xFF, .p1⟩ ]

/-- The row selects the byte (30_encoding.md R62). -/
def OpRow.selects (r : OpRow) (c : Byte) : Bool := c &&& r.mask == r.pattern

/-- The instruction the decoder reads from a table word: the command byte is the word's bits 7 to 0, the
only length there is (30_encoding.md R60, R61). -/
def decodeTableWord (nbits w : Nat) : Option Instr :=
  match decode (BitVec.ofNat 8 (w % 2 ^ nbits)) with
  | .ok i => some i
  | .error _ => none

/-! ## Written forms (30_encoding.md R71, R72) -/

/-- The command a written form stands for. -/
def Asm.instr : Asm → Instr
  | .shake32 .. => .shake32
  | .shake64 .. => .shake64 false
  | .shake64d .. => .shake64 true
  | .stir .. => .stir
  | .rotl32 .. => .rotl32
  | .combine32 .. => .combine32
  | .mix32 .. => .mix32
  | .scramble32 .. => .scramble32
  | .rotl64 .. => .rotl64
  | .mix64 .. => .mix64
  | .scramble64 .. => .scramble64

/-- The request a written form stands for (30_encoding.md R71). A field the command does not read is written
as 0: any value is legal there (R63; log 28). -/
def Asm.toRequest (f : Asm) : Request :=
  let q : Request := { cmd := encode f.instr, addr := 0, len := 0, seed := 0, a := 0, b := 0, g := 0 }
  match f with
  | .shake32 addr len seed => { q with addr, len, seed }
  | .shake64 addr len seed => { q with addr, len, seed }
  | .shake64d addr len seed => { q with addr, len, seed }
  | .stir addr len hash => { q with addr, len, seed := hash }
  | .rotl32 a r => { q with a, b := r }
  | .combine32 a b g => { q with a, b, g }
  | .mix32 a b g => { q with a, b, g }
  | .scramble32 a => { q with a }
  | .rotl64 a r => { q with a, b := r }
  | .mix64 a b g => { q with a, b, g }
  | .scramble64 a => { q with a }

/-- The one expansion of a pseudo-command (30_encoding.md R72). -/
def Pseudo.expand : Pseudo → Asm
  | .combine32 a b => .combine32 a b 0
  | .mix32 a b => .mix32 a b 0
  | .mix64 a b => .mix64 a b 0
  | .shake64d addr len seed => .shake64d addr len seed

/-- The lower-case mnemonic of a written form (30_encoding.md R71). -/
def Asm.mnemonic : Asm → String
  | .shake32 .. => "shake32"
  | .shake64 .. => "shake64"
  | .shake64d .. => "shake64.d"
  | .stir .. => "stir"
  | .rotl32 .. => "rotl32"
  | .combine32 .. => "combine32"
  | .mix32 .. => "mix32"
  | .scramble32 .. => "scramble32"
  | .rotl64 .. => "rotl64"
  | .mix64 .. => "mix64"
  | .scramble64 .. => "scramble64"

/-- The operands of a written form, in the order of 30_encoding.md R63. -/
def Asm.operands : Asm → List Word64
  | .shake32 addr len seed => [addr, len, seed]
  | .shake64 addr len seed => [addr, len, seed]
  | .shake64d addr len seed => [addr, len, seed]
  | .stir addr len hash => [addr, len, hash]
  | .rotl32 a r => [a, r]
  | .combine32 a b g => [a, b, g]
  | .mix32 a b g => [a, b, g]
  | .scramble32 a => [a]
  | .rotl64 a r => [a, r]
  | .mix64 a b g => [a, b, g]
  | .scramble64 a => [a]

/-- The text of a written form: the mnemonic, then the operands separated by commas (30_encoding.md R71),
in hexadecimal. -/
def Asm.text (f : Asm) : String :=
  f.mnemonic ++ " " ++ ", ".intercalate (f.operands.map fun v => "0x" ++ v.toHex)

end Sys2Proof
end

