-- ==== Sys2Proof/Machine/Operands.lean ====
section
/-! DEFINITION. How operands are formed: the operators of 00_scope.md R17, narrowing (30_encoding.md R64),
zero extension (R69), little-endian assembly of message bytes (20_memory.md R43 to R45), and the phase counts. -/

namespace Sys2Proof.Machine

/-- `zext_64` of a 32-bit value (00_scope.md R16; 30_encoding.md R69). -/
def zext64 (v : Word32) : Word64 := v.setWidth 64

/-- Bits `[31:0]` of a 64-bit operand field (30_encoding.md R64). -/
def low32 (v : Word64) : Word32 := v.setWidth 32

/-- `sext_N`, defined by 00_scope.md R16 for completeness and used by no rule. -/
def sextTo (n : Nat) {w : Nat} (v : BitVec w) : BitVec n := v.signExtend n

/-- `rotlN(a, r)` for `0 <= r < N` (00_scope.md R17; log 25). -/
def rotl {w : Nat} (a : BitVec w) (r : Nat) : BitVec w :=
  if r = 0 then a else (a <<< r) ||| (a >>> (w - r))

/-- `a ^ (a >> k)`, the xor-shift of the finishers (40_primitives32.md R85; 42_primitives64.md R115). -/
def xorShift {w : Nat} (a : BitVec w) (k : Nat) : BitVec w := a ^^^ (a >>> k)

/-- `LE(bytes)` (00_scope.md R18; 20_memory.md R43): byte `k` has weight `2^(8k)`. -/
def le : List Byte → Nat
  | [] => 0
  | b :: bs => b.toNat + 256 * le bs

/-- A 32-bit word or a zero-extended sub-word tail from its bytes (20_memory.md R44, R45). -/
def word32 (bs : List Byte) : Word32 := BitVec.ofNat 32 (le bs)

/-- A 64-bit word or a zero-extended sub-word tail from its bytes (20_memory.md R44, R45). -/
def word64 (bs : List Byte) : Word64 := BitVec.ofNat 64 (le bs)

/-- Word `i` of a SHAKE32 block (20_memory.md R44). -/
def blockWord32 (block : List Byte) (i : Nat) : Word32 := word32 ((block.drop (4 * i)).take 4)

/-- Word `i` of a SHAKE64 block (20_memory.md R44). -/
def blockWord64 (block : List Byte) (i : Nat) : Word64 := word64 ((block.drop (8 * i)).take 8)

/-- The twelve words of a SHAKE64 block (43_shake64.md R133). -/
def blockWords64 (block : List Byte) : Lanes64 := Vector.ofFn fun i : Fin 12 => blockWord64 block i

/-- `nblk`: full blocks (41_shake32.md R100, block 16; 43_shake64.md R141, block 96). -/
def nblk (block len : Nat) : Nat := len / block

/-- `nw`: whole tail words (41_shake32.md R100; 43_shake64.md R141). -/
def nw (block word len : Nat) : Nat := len % block / word

/-- `nb`: tail bytes (41_shake32.md R100; 43_shake64.md R141). -/
def nb (word len : Nat) : Nat := len % word

/-- The guard term `guard(sd)` (00_scope.md R9). -/
def guardTerm (c : Config) {w : Nat} (sd : BitVec w) : BitVec w := if c.guardEn then sd else 0

/-- The seed as SHAKE32 takes it, and the running hash as STIR does: bits `[31:0]` (30_encoding.md R64). -/
def seed32 (q : Request) : Word32 := low32 q.seed

/-- The range `[addr, addr + len)` wraps past the top of the address space (60_exceptions.md R163), as
unbounded integers. -/
def addrWraps (q : Request) : Bool := q.len != 0 && decide (2 ^ 64 < q.addr.toNat + q.len.toNat)

/-- The address is one of the message's (20_memory.md R42). -/
def inMessage (q : Request) (addr : Word64) : Bool :=
  decide (q.addr.toNat ≤ addr.toNat ∧ addr.toNat < q.addr.toNat + q.len.toNat)

end Sys2Proof.Machine
end

