-- ==== Sys2Proof/Machine/Ops.lean ====
section
/-! DEFINITION. The named operations: message memory, the two channels, ending a command (good response or
fault response), and reset. -/

namespace Sys2Proof.Machine

/-! ## Message memory -/

/-- The byte the platform answers at an address, or none where it refuses the read (20_memory.md R51;
log 6). -/
def Memory.read (m : Memory) (addr : Word64) : Option Byte := m.lookup addr.toNat

/-- The cells of `m` with the cell of one address put in, in canonical form. -/
def Memory.putCell : Memory → Nat → Byte → Memory
  | [], a, b => [(a, b)]
  | c :: m, a, b =>
    if a < c.1 then (a, b) :: c :: m
    else if a = c.1 then (a, b) :: m
    else c :: Memory.putCell m a b

/-- The host puts a byte into message memory, which it owns (10_state.md R33); the platform answers that
address from then on (log 24). -/
def Memory.write (m : Memory) (addr : Word64) (b : Byte) : Memory := m.putCell addr.toNat b

/-- The platform answers the address no longer (20_memory.md R51; log 24). -/
def Memory.erase (m : Memory) (addr : Word64) : Memory := m.filter fun c => c.1 != addr.toNat

/-- The canonical form: addresses strictly rising and inside the 64-bit space (20_memory.md R40). An unlisted
address has no value, so no entry can equal one. -/
def Memory.wf (m : Memory) : Bool :=
  decide (m.Pairwise fun x y => x.1 < y.1) && m.all fun c => decide (c.1 < 2 ^ 64)

/-- What a run of byte reads gives: the bytes read with their addresses, and the refused address if one was. -/
structure ReadResult where
  pairs : List (Word64 × Byte)
  refused : Option Word64
  deriving DecidableEq, Repr

/-- The bytes read, lowest address first. -/
def ReadResult.bytes (r : ReadResult) : List Byte := r.pairs.map Prod.snd

/-- `MemRead(addr, n)` (20_memory.md R41) from what each address answers: one byte at a time, lowest address
first, stopping at the lowest address that is refused (60_exceptions.md R165). -/
def readBytes (answer : Word64 → Option Byte) : Word64 → Nat → ReadResult
  | _, 0 => ⟨[], none⟩
  | addr, n + 1 =>
    match answer addr with
    | none => ⟨[], some addr⟩
    | some b =>
      let r := readBytes answer (addr + 1) n
      ⟨(addr, b) :: r.pairs, r.refused⟩

/-- The reads made, put on the record of the run (20_memory.md R42; log 13). -/
def State.logReads (s : State) (pairs : List (Word64 × Byte)) : State := { s with reads := s.reads ++ pairs }

/-! ## A message that changes while a command is in flight (20_memory.md R54) -/

/-- The address belongs to the message of a command in flight: busy, the command reads memory, and the
address is in its range (20_memory.md R54). -/
def State.inFlight (s : State) (addr : Word64) : Bool :=
  s.busy &&
    match decode s.regs.captured.cmd with
    | .ok i => i.format == .h && inMessage s.regs.captured addr
    | .error _ => false

/-- Before the answer of an address of a message in flight changes, the one it gave is kept (log 12). -/
def State.hold (s : State) (addr : Word64) : State :=
  if s.inFlight addr then { s with held := (addr, s.mem.read addr) :: s.held } else s

/-- What an address has answered since acceptance: as memory stands, then the earlier answers, newest first. -/
def State.answers (s : State) (addr : Word64) : List (Option Byte) :=
  s.mem.read addr :: (s.held.filter fun x => x.1 == addr).map Prod.snd

/-- The element `n` places down a list, or the last one. -/
def pick {α : Type} : α → List α → Nat → α
  | x, [], _ => x
  | x, _ :: _, 0 => x
  | _, y :: ys, n + 1 => pick y ys n

/-- What a byte read of the command in flight gets: an answer the address gave at some moment since
acceptance; which moment is a free value (20_memory.md R54; log 12). -/
def State.sample (s : State) (addr : Word64) : Option Byte :=
  match s.answers addr with
  | [] => none
  | now :: earlier => pick now earlier (Config.moment s.freeCount addr)

/-! ## Ending a command -/

/-- The registers after a command: those it used are unspecified from then on (10_state.md R22;
60_exceptions.md R164), so free (log 8); the lane file and accumulator it does not use keep theirs (R20, R21,
R23; log 10). -/
def dropRegs (i : Instr) (free regs : Regs) : Regs :=
  match i with
  | .shake32 => { free with s64 := regs.s64, h := regs.h, d2 := regs.d2 }
  | .shake64 _ => { free with s32 := regs.s32, h := regs.h }
  | .stir => { free with s32 := regs.s32, s64 := regs.s64, gd := regs.gd, d2 := regs.d2 }
  | .rotl32 | .combine32 | .mix32 | .scramble32 | .rotl64 | .mix64 | .scramble64 =>
    { regs with captured := free.captured }

/-- Emission of a response (10_state.md R29, R30): the response is on its channel, the hasher is idle. -/
def State.emit (s : State) (p : Response) (regs : Regs) : State :=
  { s with
    phase := .idle
    response := some p
    regs := regs
    faulted := s.faulted || p.err != 0
    freeCount := s.freeCount + 1 }

/-- `respond` (00_scope.md R18; 30_encoding.md R68): the end of a command without fault. -/
def State.respond (s : State) (i : Instr) (p : Response) : State :=
  s.emit p (dropRegs i (Config.unspecified s.freeCount) s.regs)

/-- TAKING A FAULT: `raise F(x)` of a decoded command (60_exceptions.md R164). One fault response; nothing is
saved, there is no handler, vector, saved cursor, cause register or mode; the command's registers are dropped.
There is nothing to return from (R168). -/
def State.raise (s : State) (i : Instr) (f : HwFault) (info : Word64) : State :=
  s.emit (.fault f info) (dropRegs i (Config.unspecified s.freeCount) s.regs)

/-- `raise IllegalCommand(zext_64(cmd))` (60_exceptions.md R162): from the command byte alone, before any
command is known; no lane is written, and cursor and captured request are dropped (R164; log 26). -/
def State.raiseIllegal (s : State) (cmd : Byte) : State :=
  let free := Config.unspecified s.freeCount
  s.emit (.fault .illegalCommand (cmd.setWidth 64))
    { s.regs with captured := free.captured, pos := free.pos }

/-! ## Accepting a request -/

/-- Acceptance (10_state.md R30, R31): the request leaves its channel and all its fields are captured. No
answer of its message has changed yet. -/
def State.capture (s : State) (q : Request) : State :=
  { s with request := none, regs := { s.regs with captured := q }, held := [] }

/-- A command of format H as one atomic step (10_state.md R30): the wrap check (60_exceptions.md R163), the
reads of the whole message in order (20_memory.md R42), and the response, a function of the bytes read
(00_scope.md R6), or the fault of the lowest refused address (60_exceptions.md R165). -/
def hashCommand (i : Instr) (s : State) (answer : List Byte → Response) : Result :=
  let q := s.regs.captured
  if addrWraps q then .next (s.raise i .addrWrap q.addr)
  else
    let r := readBytes s.mem.read q.addr q.len.toNat
    let s1 := s.logReads r.pairs
    match r.refused with
    | some addr => .next (s1.raise i .msgAccessFault addr)
    | none => .next (s1.respond i (answer r.bytes))

/-! ## Reset and the host's moves -/

/-- Reset as an input (70_reset_and_hazards.md R180, R182): idle, both channels emptied, every register
unspecified (log 8); no response for a command in progress. Memory, and what the model records of the run,
stay (log 27). -/
def State.applyReset (s : State) : State :=
  { s with
    phase := .idle
    request := none
    response := none
    regs := Config.unspecified s.freeCount
    freeCount := s.freeCount + 1 }

/-- The host writes a byte of message memory (10_state.md R33); in a message in flight too (20_memory.md R54). -/
def State.hostWrite (s : State) (addr : Word64) (b : Byte) : State :=
  { s.hold addr with mem := s.mem.write addr b }

/-- The platform stops answering an address (20_memory.md R51); of a message in flight too (log 24). -/
def State.hostUnmap (s : State) (addr : Word64) : State :=
  { s.hold addr with mem := s.mem.erase addr }

end Sys2Proof.Machine
end

