-- ==== Sys2Proof/Machine/Primitives32.lean ====
section
/-! DEFINITION. The 32-bit mixing primitives, as functions and as commands (40_primitives32.md). A command is
a function of its captured operands; its meaning `exec…` takes the build's configuration. -/

namespace Sys2Proof.Machine

/-- The amount is taken modulo 32 (40_primitives32.md R81). -/
def rotl32Value (q : Request) : Word32 := rotl (low32 q.a) (q.b.toNat % 32)

/-- `combine32(h, w, g)` (40_primitives32.md R82). -/
def combine32 (c : Config) (h w g : Word32) : Word32 :=
  let p := w * c.m1
  let h := h + g
  let h := h + p
  let h := rotl h 14
  h * c.m2

/-- The default shape of `mix32` (40_primitives32.md R84); the machine does not use it (log 20). -/
def mix32Default (x1 : Word32) (xr1 : BitVec 5) (x2 : Word32) (xr2 : BitVec 5) (x3 : Word32)
    (h w : Word32) : Word32 :=
  let t := w * x1
  let t := rotl t xr1.toNat
  let t := t * x2
  let h := h ^^^ t
  let h := rotl h xr2.toNat
  h * x3

/-- `scramble32(h)` (40_primitives32.md R85). -/
def scramble32 (c : Config) (h : Word32) : Word32 :=
  let h := xorShift h c.sr1.toNat
  let h := h * c.sm1
  let h := xorShift h c.sr2.toNat
  let h := h * c.sm2
  xorShift h c.sr3.toNat

/-- ROTL32 (40_primitives32.md R81). -/
def rotl32Command (s : State) : Result :=
  .next (s.respond .rotl32 (.good (zext64 (rotl32Value s.regs.captured))))

/-- COMBINE32 (40_primitives32.md R82). -/
def combine32Command (c : Config) (s : State) : Result :=
  let q := s.regs.captured
  .next (s.respond .combine32 (.good (zext64 (combine32 c (low32 q.a) (low32 q.b) (low32 q.g)))))

/-- MIX32: `mix32(a + g, b)` (40_primitives32.md R83). -/
def mix32Command (c : Config) (s : State) : Result :=
  let q := s.regs.captured
  .next (s.respond .mix32 (.good (zext64 (c.mix32 (low32 q.a + low32 q.g) (low32 q.b)))))

/-- SCRAMBLE32 (40_primitives32.md R85). -/
def scramble32Command (c : Config) (s : State) : Result :=
  .next (s.respond .scramble32 (.good (zext64 (scramble32 c (low32 s.regs.captured.a)))))

/-- The meaning of ROTL32. -/
def execRotl32 (s : State) : Result := rotl32Command s

/-- The meaning of COMBINE32. -/
def execCombine32 (s : State) : Result := combine32Command Config.build s

/-- The meaning of MIX32. -/
def execMix32 (s : State) : Result := mix32Command Config.build s

/-- The meaning of SCRAMBLE32. -/
def execScramble32 (s : State) : Result := scramble32Command Config.build s

end Sys2Proof.Machine
end

