-- ==== Sys2Proof/Machine/Shake32.lean ====
section
/-! DEFINITION. SHAKE32 (41_shake32.md): the steps, and the command as one atomic step. The phase machine
(Phases.lean) uses the same steps. -/

namespace Sys2Proof.Machine

/-- INIT (41_shake32.md R92): `s32[0]` is offset by `sd - gd`. -/
def init32 (c : Config) (sd gd : Word32) : Lanes32 := c.c32.set 0 (c.c32[0] + (sd - gd))

/-- BULK, one block (41_shake32.md R93): lane `i` takes word `i`. -/
def block32 (c : Config) (gd : Word32) (s : Lanes32) (block : List Byte) : Lanes32 :=
  Vector.ofFn fun i : Fin 4 => combine32 c s[i] (blockWord32 block i) gd

/-- LENFOLD (41_shake32.md R94): the whole byte length, narrowed. -/
def lenfold32 (c : Config) (gd : Word32) (s : Lanes32) (len : Word64) : Lanes32 :=
  s.set 0 (combine32 c s[0] (low32 len) gd)

/-- CONDENSE (41_shake32.md R95): the third combination uses the `s32[2]` just written. -/
def condense32 (c : Config) (gd : Word32) (s : Lanes32) : Lanes32 :=
  let s := s.set 0 (combine32 c s[0] s[1] gd)
  let s := s.set 2 (combine32 c s[2] s[3] gd)
  s.set 0 (combine32 c s[0] s[2] gd)

/-- WORDS, one tail word (41_shake32.md R96). -/
def wordTail32 (c : Config) (gd : Word32) (s : Lanes32) (bs : List Byte) : Lanes32 :=
  s.set 0 (c.mix32 (s[0] + gd) (word32 bs))

/-- BYTES (41_shake32.md R97). -/
def byteTail32 (c : Config) (gd : Word32) (s : Lanes32) (bs : List Byte) : Lanes32 :=
  s.set 0 (combine32 c s[0] (word32 bs) gd)

/-- FINAL (41_shake32.md R98). -/
def final32 (c : Config) (s : Lanes32) : Word32 := scramble32 c s[0]

/-- The bulk phase over `n` blocks, from the front of the bytes. -/
def blocks32 (c : Config) (gd : Word32) : Nat → Lanes32 → List Byte → Lanes32
  | 0, s, _ => s
  | n + 1, s, bs => blocks32 c gd n (block32 c gd s (bs.take 16)) (bs.drop 16)

/-- The word tail over `n` words, from the front of the bytes. -/
def wordTails32 (c : Config) (gd : Word32) : Nat → Lanes32 → List Byte → Lanes32
  | 0, s, _ => s
  | n + 1, s, bs => wordTails32 c gd n (wordTail32 c gd s (bs.take 4)) (bs.drop 4)

/-- SHAKE32 as one function of the message bytes (41_shake32.md R99): `msg` is the `len` bytes at `addr`. -/
def shake32Digest (c : Config) (sd : Word32) (len : Word64) (msg : List Byte) : Word32 :=
  let n := len.toNat
  let gd := guardTerm c sd
  let s := init32 c sd gd
  let s := blocks32 c gd (nblk 16 n) s msg
  let msg := msg.drop (16 * nblk 16 n)
  let s := lenfold32 c gd s len
  let s := if 16 ≤ n then condense32 c gd s else s
  let s := wordTails32 c gd (nw 16 4 n) s msg
  let msg := msg.drop (4 * nw 16 4 n)
  let s := if nb 4 n ≠ 0 then byteTail32 c gd s msg else s
  final32 c s

/-- SHAKE32 (41_shake32.md R90, R99). -/
def shake32Command (c : Config) (s : State) : Result :=
  let q := s.regs.captured
  hashCommand .shake32 s fun msg => .good (zext64 (shake32Digest c (seed32 q) q.len msg))

/-- The meaning of SHAKE32. -/
def execShake32 (s : State) : Result := shake32Command Config.build s

end Sys2Proof.Machine
end

