-- ==== Sys2Proof/Machine/Primitives64.lean ====
section
/-! DEFINITION. The 64-bit mixing primitives and the SHAKE64 block functions (42_primitives64.md). There is no
64-bit combine (R113). -/

namespace Sys2Proof.Machine

/-- The amount is taken modulo 64 (42_primitives64.md R111). -/
def rotl64Value (q : Request) : Word64 := rotl q.a (q.b.toNat % 64)

/-- `mix64(h, w, g)` (42_primitives64.md R112). -/
def mix64 (c : Config) (h w g : Word64) : Word64 :=
  let h := h + g
  let t := w * c.p1
  let t := rotl t 14
  let t := t * c.p2
  let h := h ^^^ t
  let h := rotl h 5
  h * 9

/-- `tri64(n)`, the parity step in 64-bit operations, as the document writes it (42_primitives64.md R116). -/
def tri64 (n : Word64) : Word64 :=
  if n = 0xFFFFFFFFFFFFFFFF then 0x8000000000000000
  else if n.getLsbD 0 then n * ((n + 1#64) >>> 1)
  else (n + 1#64) * (n >>> 1)

/-- `tri64(n)` as the triangular number over the unbounded integers, reduced (42_primitives64.md R116). That
the two forms agree is a statement. -/
def tri64Exact (n : Word64) : Word64 := BitVec.ofNat 64 (n.toNat * (n.toNat + 1) / 2)

/-- `scramble64(h)` (42_primitives64.md R114, R115). -/
def scramble64 (c : Config) (h : Word64) : Word64 :=
  let h := xorShift h 32
  let h := h * c.q1
  let h := tri64 h
  xorShift h 32

/-- One lane's turn in the default shape of `round64` (42_primitives64.md R119). -/
def roundLaneDefault (oa ob : Fin 12) (w : Lanes64) (g : Word64) (s : Lanes64) (i : Fin 12) : Lanes64 :=
  let s := s.set i (s[i] + g + w[i])
  let s := s.set i (s[i] ^^^ s[i + oa])
  let s := s.set i (s[i] ^^^ s[i + ob])
  if i.val % 3 = 0 then s.set i (rotl s[i] 17) else s

/-- The default shape of `round64` (42_primitives64.md R119), lanes in order 0 to 11; the machine does not use
it (log 20). -/
def round64Default (oa ob : Fin 12) (s w : Lanes64) (g : Word64) : Lanes64 :=
  (List.finRange 12).foldl (roundLaneDefault oa ob w g) s

/-- `condense64(s, g)`: a chain into lane 0 over the configured source lanes (42_primitives64.md R121). -/
def condense64 (c : Config) (s : Lanes64) (g : Word64) : Lanes64 :=
  c.cond64Src.foldl (fun t j => t.set 0 (mix64 c t[0] t[j] g)) s

/-- ROTL64 (42_primitives64.md R111). -/
def rotl64Command (s : State) : Result :=
  .next (s.respond .rotl64 (.good (rotl64Value s.regs.captured)))

/-- MIX64 (42_primitives64.md R112). -/
def mix64Command (c : Config) (s : State) : Result :=
  let q := s.regs.captured
  .next (s.respond .mix64 (.good (mix64 c q.a q.b q.g)))

/-- SCRAMBLE64 (42_primitives64.md R114). -/
def scramble64Command (c : Config) (s : State) : Result :=
  .next (s.respond .scramble64 (.good (scramble64 c s.regs.captured.a)))

/-- The meaning of ROTL64. -/
def execRotl64 (s : State) : Result := rotl64Command s

/-- The meaning of MIX64. -/
def execMix64 (s : State) : Result := mix64Command Config.build s

/-- The meaning of SCRAMBLE64. -/
def execScramble64 (s : State) : Result := scramble64Command Config.build s

end Sys2Proof.Machine
end

