-- ==== Sys2Proof/Machine/Shake64.lean ====
section
/-! DEFINITION. SHAKE64 (43_shake64.md): the steps, and the command as one atomic step. The phase machine
(Phases.lean) uses the same steps. -/

namespace Sys2Proof.Machine

/-- INIT (43_shake64.md R132). -/
def init64 (c : Config) (sd gd : Word64) : Lanes64 := c.k64.set 0 (c.k64[0] ^^^ sd ^^^ gd)

/-- BULK, one block (43_shake64.md R133). -/
def block64 (c : Config) (gd : Word64) (s : Lanes64) (block : List Byte) : Lanes64 :=
  c.round64 s (blockWords64 block) gd

/-- LENFOLD (43_shake64.md R134): the whole byte length, 64 bits. -/
def lenfold64 (c : Config) (gd : Word64) (s : Lanes64) (len : Word64) : Lanes64 :=
  s.set 0 (mix64 c s[0] len gd)

/-- WORDS, one tail word, and BYTES (43_shake64.md R136, R137). -/
def tail64 (c : Config) (gd : Word64) (s : Lanes64) (bs : List Byte) : Lanes64 :=
  s.set 0 (mix64 c s[0] (word64 bs) gd)

/-- DUAL (43_shake64.md R138): lane `s64[0]`, word `s64[2]`, no guard increment, no lane written. -/
def dual64 (c : Config) (s : Lanes64) : Word64 := scramble64 c (mix64 c s[0] s[2] 0)

/-- FINAL (43_shake64.md R139). -/
def final64 (c : Config) (s : Lanes64) : Word64 := scramble64 c s[0]

/-- The bulk phase over `n` blocks, from the front of the bytes. -/
def blocks64 (c : Config) (gd : Word64) : Nat → Lanes64 → List Byte → Lanes64
  | 0, s, _ => s
  | n + 1, s, bs => blocks64 c gd n (block64 c gd s (bs.take 96)) (bs.drop 96)

/-- The word tail over `n` words, from the front of the bytes. -/
def wordTails64 (c : Config) (gd : Word64) : Nat → Lanes64 → List Byte → Lanes64
  | 0, s, _ => s
  | n + 1, s, bs => wordTails64 c gd n (tail64 c gd s (bs.take 8)) (bs.drop 8)

/-- The lanes after every phase that reads the message (43_shake64.md R140, up to the DUAL line). -/
def shake64Lanes (c : Config) (sd len : Word64) (msg : List Byte) : Lanes64 :=
  let n := len.toNat
  let gd := guardTerm c sd
  let s := init64 c sd gd
  let s := blocks64 c gd (nblk 96 n) s msg
  let msg := msg.drop (96 * nblk 96 n)
  let s := lenfold64 c gd s len
  let s := if 96 ≤ n then condense64 c s gd else s
  let s := wordTails64 c gd (nw 96 8 n) s msg
  let msg := msg.drop (8 * nw 96 8 n)
  if nb 8 n ≠ 0 then tail64 c gd s msg else s

/-- The response of SHAKE64 from its lanes (43_shake64.md R138, R139). -/
def answer64 (c : Config) (dual : Bool) (s : Lanes64) : Response :=
  if dual then .goodDual (final64 c s) (dual64 c s) else .good (final64 c s)

/-- SHAKE64 (43_shake64.md R130, R140). -/
def shake64Command (c : Config) (dual : Bool) (s : State) : Result :=
  let q := s.regs.captured
  hashCommand (.shake64 dual) s fun msg => answer64 c dual (shake64Lanes c q.seed q.len msg)

/-- The meaning of SHAKE64. -/
def execShake64 (dual : Bool) (s : State) : Result := shake64Command Config.build dual s

end Sys2Proof.Machine
end

