-- ==== Sys2Proof/Machine/Stir.lean ====
section
/-! DEFINITION. STIR (44_stir.md). It uses no configuration (R154). -/

namespace Sys2Proof.Machine

/-- The multiplier of STIR (44_stir.md R151; 00_scope.md R14). -/
def stirMultiplier : Word32 := 0xAB64A9B3

/-- One byte of STIR (44_stir.md R151): multiply, then add the byte, zero-extended (R156). -/
def stirByte (h : Word32) (b : Byte) : Word32 := h * stirMultiplier + b.setWidth 32

/-- STIR over a byte sequence, in input order (44_stir.md R151). -/
def stirHash (h : Word32) (msg : List Byte) : Word32 := msg.foldl stirByte h

/-- STIR (44_stir.md R150, R151). -/
def stirCommand (s : State) : Result :=
  hashCommand .stir s fun msg => .good (zext64 (stirHash (seed32 s.regs.captured) msg))

/-- The meaning of STIR. -/
def execStir (s : State) : Result := stirCommand s

end Sys2Proof.Machine
end

