-- ==== Sys2Proof/Machine/Phases.lean ====
section
/-! DEFINITION. The phase machine (10_state.md R24, R25): the refinement of a command in smaller steps, each
one phase, or one block, word or byte of it. -/

namespace Sys2Proof.Machine

/-! ## Which phase comes next (10_state.md R25)

`p` is the cursor's offset after the phase just run. BULK has work while a full block is left, WORDS while a
full word is left, so each runs as often as R25's counts say. -/

/-- DUAL if asked for, else FINAL. -/
def dualOrFinal (dual : Bool) : Phase := if dual then .dual else .final

/-- BYTES if the length has a sub-word tail, else what follows it. -/
def bytesOrLater (word : Nat) (dual : Bool) (len : Nat) : Phase :=
  if len % word ≠ 0 then .bytes else dualOrFinal dual

/-- WORDS while a whole word is left, else what follows it. -/
def wordsOrLater (word : Nat) (dual : Bool) (len p : Nat) : Phase :=
  if p + word ≤ len then .words else bytesOrLater word dual len

/-- BULK while a whole block is left, else LENFOLD. -/
def bulkOrLater (block len p : Nat) : Phase := if p + block ≤ len then .bulk else .lenfold

/-- The phase after a phase of SHAKE32 (block 16, word 4) or SHAKE64 (block 96, word 8). -/
def shakeNext (block word : Nat) (dual : Bool) (len p : Nat) : Phase → Phase
  | .init => bulkOrLater block len p
  | .bulk => bulkOrLater block len p
  | .lenfold => if block ≤ len then .condense else wordsOrLater word dual len p
  | .condense => wordsOrLater word dual len p
  | .words => wordsOrLater word dual len p
  | .bytes => dualOrFinal dual
  | .dual => .final
  | .final | .idle | .compute => .idle

/-- The phase after a phase of STIR: BYTES while a byte is left, then FINAL. -/
def stirNext (len p : Nat) : Phase → Phase
  | .init | .bytes => if p < len then .bytes else .final
  | .idle | .bulk | .lenfold | .condense | .words | .dual | .final | .compute => .idle

/-- The phase after a phase of a command. -/
def nextPhase (i : Instr) (len p : Nat) (ph : Phase) : Phase :=
  match i with
  | .shake32 => shakeNext 16 4 false len p ph
  | .shake64 dual => shakeNext 96 8 dual len p ph
  | .stir => stirNext len p ph
  | .rotl32 | .combine32 | .mix32 | .scramble32 | .rotl64 | .mix64 | .scramble64 => .idle

/-- The phase a command starts in (10_state.md R25). -/
def firstPhase (i : Instr) : Phase := if i.format = .h then .init else .compute

/-! ## Running one phase -/

/-- A phase has run: its registers are written and the next phase with work is entered. -/
def State.advance (s : State) (i : Instr) (regs : Regs) : State :=
  { s with regs := regs, phase := nextPhase i regs.captured.len.toNat regs.pos.toNat s.phase }

/-- A phase that reads `n` message bytes at the cursor (20_memory.md R42), which may be refused
(60_exceptions.md R165). -/
def State.readPhase (s : State) (i : Instr) (n : Nat) (write : List Byte → Regs) : State :=
  let r := readBytes s.sample (s.regs.captured.addr + s.regs.pos) n
  let s1 := s.logReads r.pairs
  match r.refused with
  | some addr => s1.raise i .msgAccessFault addr
  | none => s1.advance i (write r.bytes)

/-- The 32-bit guard term SHAKE32 holds in `gd` (log 21). -/
def Regs.gd32 (r : Regs) : Word32 := low32 r.gd

/-- One phase of SHAKE32 (41_shake32.md R92 to R98). -/
def phaseShake32 (c : Config) (s : State) : Result :=
  let r := s.regs
  let q := r.captured
  match s.phase with
  | .init =>
    let gd := guardTerm c (seed32 q)
    .next (s.advance .shake32 { r with gd := zext64 gd, s32 := init32 c (seed32 q) gd, pos := 0 })
  | .bulk =>
    .next (s.readPhase .shake32 16 fun bs =>
      { r with s32 := block32 c r.gd32 r.s32 bs, pos := r.pos + 16 })
  | .lenfold => .next (s.advance .shake32 { r with s32 := lenfold32 c r.gd32 r.s32 q.len })
  | .condense => .next (s.advance .shake32 { r with s32 := condense32 c r.gd32 r.s32 })
  | .words =>
    .next (s.readPhase .shake32 4 fun bs =>
      { r with s32 := wordTail32 c r.gd32 r.s32 bs, pos := r.pos + 4 })
  | .bytes =>
    .next (s.readPhase .shake32 (nb 4 q.len.toNat) fun bs =>
      { r with s32 := byteTail32 c r.gd32 r.s32 bs, pos := r.pos + BitVec.ofNat 64 (nb 4 q.len.toNat) })
  | .final => .next (s.respond .shake32 (.good (zext64 (final32 c r.s32))))
  | .idle | .dual | .compute => .fault .noSuchPhase

/-- One phase of SHAKE64 (43_shake64.md R132 to R139). -/
def phaseShake64 (c : Config) (dual : Bool) (s : State) : Result :=
  let r := s.regs
  let q := r.captured
  match s.phase with
  | .init =>
    let gd := guardTerm c q.seed
    .next (s.advance (.shake64 dual) { r with gd := gd, s64 := init64 c q.seed gd, pos := 0 })
  | .bulk =>
    .next (s.readPhase (.shake64 dual) 96 fun bs =>
      { r with s64 := block64 c r.gd r.s64 bs, pos := r.pos + 96 })
  | .lenfold => .next (s.advance (.shake64 dual) { r with s64 := lenfold64 c r.gd r.s64 q.len })
  | .condense => .next (s.advance (.shake64 dual) { r with s64 := condense64 c r.s64 r.gd })
  | .words =>
    .next (s.readPhase (.shake64 dual) 8 fun bs =>
      { r with s64 := tail64 c r.gd r.s64 bs, pos := r.pos + 8 })
  | .bytes =>
    .next (s.readPhase (.shake64 dual) (nb 8 q.len.toNat) fun bs =>
      { r with s64 := tail64 c r.gd r.s64 bs, pos := r.pos + BitVec.ofNat 64 (nb 8 q.len.toNat) })
  | .dual =>
    if dual then .next (s.advance (.shake64 dual) { r with d2 := dual64 c r.s64 })
    else .fault .noSuchPhase
  | .final =>
    .next (s.respond (.shake64 dual)
      (if dual then .goodDual (final64 c r.s64) r.d2 else .good (final64 c r.s64)))
  | .idle | .compute => .fault .noSuchPhase

/-- One phase of STIR (44_stir.md R151): INIT, one byte, or the response. -/
def phaseStir (s : State) : Result :=
  let r := s.regs
  match s.phase with
  | .init => .next (s.advance .stir { r with h := seed32 r.captured, pos := 0 })
  | .bytes =>
    .next (s.readPhase .stir 1 fun bs => { r with h := stirHash r.h bs, pos := r.pos + 1 })
  | .final => .next (s.respond .stir (.good (zext64 r.h)))
  | .idle | .bulk | .lenfold | .condense | .words | .dual | .compute => .fault .noSuchPhase

/-- The one computing step of a primitive command (10_state.md R25). -/
def phasePrimitive (s : State) (command : State → Result) : Result :=
  if s.phase = .compute then command s else .fault .noSuchPhase

/-- One phase of the command in progress, whose command byte is captured. -/
def phaseStep (c : Config) (s : State) : Result :=
  match decode s.regs.captured.cmd with
  | .error _ => .fault .noSuchPhase
  | .ok .shake32 => phaseShake32 c s
  | .ok (.shake64 dual) => phaseShake64 c dual s
  | .ok .stir => phaseStir s
  | .ok .rotl32 => phasePrimitive s rotl32Command
  | .ok .combine32 => phasePrimitive s (combine32Command c)
  | .ok .mix32 => phasePrimitive s (mix32Command c)
  | .ok .scramble32 => phasePrimitive s (scramble32Command c)
  | .ok .rotl64 => phasePrimitive s rotl64Command
  | .ok .mix64 => phasePrimitive s (mix64Command c)
  | .ok .scramble64 => phasePrimitive s (scramble64Command c)

/-- Acceptance at the grain of the phase machine: the request is captured, checked in the order of
60_exceptions.md R166, and the command enters its first phase (log 23). -/
def State.accept (s : State) (q : Request) : State :=
  let s1 := s.capture q
  match decode q.cmd with
  | .error _ => s1.raiseIllegal q.cmd
  | .ok i =>
    if i.format = .h && addrWraps q then s1.raise i .addrWrap q.addr
    else { s1 with phase := firstPhase i }

end Sys2Proof.Machine
end

