-- ==== Sys2Proof/Machine/Dispatch.lean ====
section
/-! DEFINITION. One arm per command: the command as one atomic step (10_state.md R30) on the captured
operands. -/

namespace Sys2Proof.Machine

def exec (i : Instr) (s : State) : Host.Outcome State Fault Refusal :=
  match i with
  | .shake32 => Sys2Proof.Machine.execShake32 s
  | .shake64 dual => Sys2Proof.Machine.execShake64 dual s
  | .stir => Sys2Proof.Machine.execStir s
  | .rotl32 => Sys2Proof.Machine.execRotl32 s
  | .combine32 => Sys2Proof.Machine.execCombine32 s
  | .mix32 => Sys2Proof.Machine.execMix32 s
  | .scramble32 => Sys2Proof.Machine.execScramble32 s
  | .rotl64 => Sys2Proof.Machine.execRotl64 s
  | .mix64 => Sys2Proof.Machine.execMix64 s
  | .scramble64 => Sys2Proof.Machine.execScramble64 s

end Sys2Proof.Machine
end

