-- ==== Sys2Proof/Machine/Sequencer.lean ====
section
/-! DEFINITION. Who moves in a step, and what the move does: the hasher's moves and the host's. -/

namespace Sys2Proof.Machine

/-- One command as one atomic step (10_state.md R30): accept, check the command byte (60_exceptions.md R162),
run the command. -/
def runCommand (s : State) (q : Request) : Result :=
  match decode q.cmd with
  | .error _ => .next ((s.capture q).raiseIllegal q.cmd)
  | .ok i => exec i (s.capture q)

/-- The hasher's move. Busy, it runs one phase. Idle with a request waiting and no response waiting, it runs
the whole command, or, at the fine grain, accepts the request. Otherwise nothing is enabled and nothing
changes (10_state.md R29; 93_implementation_defined.md U14; log 4). -/
def hasherMove (fine : Bool) (s : State) : Result :=
  if s.phase ≠ .idle then phaseStep Config.build s
  else
    match s.response, s.request with
    | none, some q => if fine then .next (s.accept q) else runCommand s q
    | _, _ => .next s

/-- The move of the turn at the head of the list. A host move that is not enabled (a request presented while
one waits, a response taken while none does) waits, and the hasher moves (70_reset_and_hazards.md R186;
log 4). -/
def turnMove (t : Turn) (rest : List Turn) (s : State) : Result :=
  match t with
  | .hasher => hasherMove false { s with turns := rest }
  | .phase => hasherMove true { s with turns := rest }
  | .present q =>
    match s.request with
    | none => .next { s with turns := rest, request := some q }
    | some _ => hasherMove false s
  | .take =>
    match s.response with
    | some p => .next { s with turns := rest, response := none, received := s.received ++ [p] }
    | none => hasherMove false s
  | .reset => .next ({ s with turns := rest }).applyReset
  | .write addr b => .next (({ s with turns := rest }).hostWrite addr b)
  | .unmap addr => .next (({ s with turns := rest }).hostUnmap addr)

/-- The request that a table word stands for (log 15): the command byte is the word's, the operand fields
are those of a request that already waits, or 0. -/
def requestOfWord (s : State) (nbits w : Nat) : Request :=
  let q := s.request.getD { cmd := 0, addr := 0, len := 0, seed := 0, a := 0, b := 0, g := 0 }
  { q with cmd := BitVec.ofNat 8 (w % 2 ^ nbits) }

end Sys2Proof.Machine
end

