-- ==== Sys2Proof/Machine/Step.lean ====
section
/-! DEFINITION. The step: the move of the turn at the head of the list, or the hasher's where none is left. -/

namespace Sys2Proof.Machine

/-- One step (10_state.md R30; log 3). -/
def step (s : State) : Host.Outcome State Fault Refusal :=
  match s.turns with
  | [] => hasherMove false s
  | t :: rest => turnMove t rest s

/-- The command byte of a table word stands in a request on the request channel, and the hasher is idle with
nothing before it: the next step accepts and runs it (log 15). -/
def State.withFetchWord (s : State) (nbits w : Nat) : State :=
  { s with
    phase := .idle
    turns := []
    response := none
    request := some (requestOfWord s nbits w) }

end Sys2Proof.Machine
end

