-- ==== Sys2Proof/Safety.lean ====
section
/-! DEFINITION. The terms the statements use: what a message in memory is, what a command leaves unchanged,
the invariant of the machine, what a finished run is, and SHAKE32 and SHAKE64 written a second time, by
offsets into the message, as the spec's own one-function rules write them. -/

namespace Sys2Proof.Machine

/-! ## Messages -/

/-- The bytes `msg` are answered at `addr`, `addr + 1`, … (20_memory.md R41). -/
def HoldsMessage (answer : Word64 → Option Byte) (addr : Word64) (msg : List Byte) : Prop :=
  ∀ k b, msg[k]? = some b → answer (addr + BitVec.ofNat 64 k) = some b

/-- The reads of a message: each byte once, at its address, in increasing order (20_memory.md R42). -/
def messageReads (addr : Word64) : List Byte → List (Word64 × Byte)
  | [] => []
  | b :: bs => (addr, b) :: messageReads (addr + 1) bs

/-- Every byte of the request's message is readable (60_exceptions.md R160). -/
def messageReadable (m : Memory) (q : Request) : Prop :=
  ∀ k, k < q.len.toNat → m.read (q.addr + BitVec.ofNat 64 k) ≠ none

/-! ## What a command changes -/

/-- What every command leaves as it was, and that it ends idle: requests, every byte of memory, the moves to
come and the responses taken (10_state.md R29; 20_memory.md R40; 60_exceptions.md R164). -/
structure CommandFrame (s t : State) : Prop where
  idle : t.phase = .idle
  request : t.request = s.request
  memory : ∀ addr, t.mem.read addr = s.mem.read addr
  turns : t.turns = s.turns
  received : t.received = s.received

/-- What a primitive command leaves besides: it reads no memory, cannot fault, and writes no lane
(10_state.md R23; 40_primitives32.md R80; 42_primitives64.md R110). -/
structure PrimitiveFrame (s t : State) : Prop extends CommandFrame s t where
  reads : t.reads = s.reads
  faulted : t.faulted = s.faulted
  s32 : t.regs.s32 = s.regs.s32
  s64 : t.regs.s64 = s.regs.s64

/-- The registers besides the lanes that a command has no use for (10_state.md R24, R26). That they keep
their values, where the spec gives an idle hasher no values at all, is the model's reading (log 10). -/
def keepsUnused (i : Instr) (r r' : Regs) : Prop :=
  match i with
  | .shake32 => r'.h = r.h ∧ r'.d2 = r.d2
  | .shake64 _ => r'.h = r.h
  | .stir => r'.gd = r.gd ∧ r'.d2 = r.d2
  | .rotl32 | .combine32 | .mix32 | .scramble32 | .rotl64 | .mix64 | .scramble64 =>
    r'.pos = r.pos ∧ r'.gd = r.gd ∧ r'.h = r.h ∧ r'.d2 = r.d2

/-! ## The three ends of a hash command -/

/-- The range of the request does not wrap: `len = 0`, or `addr + len <= 2^64` over the unbounded integers
(60_exceptions.md R163). -/
def rangeFits (q : Request) : Prop := q.len = 0 ∨ q.addr.toNat + q.len.toNat ≤ 2 ^ 64

/-- What a hash command does in each of its three ends: the range wraps, the memory refuses a byte, every byte
is read (60_exceptions.md R160, R163, R165). `answer` is the good response for a message; `keeps` says which
lanes the command leaves alone (10_state.md R20, R21, R23). -/
structure HashEnds (i : Instr) (s : State) (answer : List Byte → Response)
    (keeps : Regs → Regs → Prop) : Prop where
  wraps : ¬ rangeFits s.regs.captured →
    ∃ t, exec i s = .next t ∧
      t.response = some { err := 2, digest := none, digest2 := none, info := some s.regs.captured.addr } ∧
      t.reads = s.reads ∧ t.faulted = true ∧ CommandFrame s t ∧ keeps s.regs t.regs
  refused : ∀ msg, rangeFits s.regs.captured → msg.length < s.regs.captured.len.toNat →
    HoldsMessage s.mem.read s.regs.captured.addr msg →
    s.mem.read (s.regs.captured.addr + BitVec.ofNat 64 msg.length) = none →
    ∃ t, exec i s = .next t ∧
      t.response = some { err := 3, digest := none, digest2 := none,
                          info := some (s.regs.captured.addr + BitVec.ofNat 64 msg.length) } ∧
      t.reads = s.reads ++ messageReads s.regs.captured.addr msg ∧ t.faulted = true ∧
      CommandFrame s t ∧ keeps s.regs t.regs
  good : ∀ msg, rangeFits s.regs.captured → msg.length = s.regs.captured.len.toNat →
    HoldsMessage s.mem.read s.regs.captured.addr msg →
    ∃ t, exec i s = .next t ∧ t.response = some (answer msg) ∧
      t.reads = s.reads ++ messageReads s.regs.captured.addr msg ∧ t.faulted = s.faulted ∧
      CommandFrame s t ∧ keeps s.regs t.regs

/-- A good response with a 32-bit result, zero-extended (30_encoding.md R68, R69). -/
def good32 (r : Word32) : Response :=
  { err := 0, digest := some (r.setWidth 64), digest2 := none, info := none }

/-- A good response with a 64-bit result (30_encoding.md R68). -/
def good64 (d : Word64) : Response := { err := 0, digest := some d, digest2 := none, info := none }

/-- The two requests agree on every field the command reads, at the width it reads it (30_encoding.md R63,
R64). -/
def sameOperands (i : Instr) (q q' : Request) : Prop :=
  match i with
  | .shake32 | .stir => q.addr = q'.addr ∧ q.len = q'.len ∧ low32 q.seed = low32 q'.seed
  | .shake64 _ => q.addr = q'.addr ∧ q.len = q'.len ∧ q.seed = q'.seed
  | .rotl32 => low32 q.a = low32 q'.a ∧ low32 q.b = low32 q'.b
  | .combine32 | .mix32 => low32 q.a = low32 q'.a ∧ low32 q.b = low32 q'.b ∧ low32 q.g = low32 q'.g
  | .scramble32 => low32 q.a = low32 q'.a
  | .rotl64 => q.a = q'.a ∧ q.b = q'.b
  | .mix64 => q.a = q'.a ∧ q.b = q'.b ∧ q.g = q'.g
  | .scramble64 => q.a = q'.a

/-- The eleven legal command bytes (30_encoding.md R66). -/
def legalBytes : List Byte := [0x01, 0x02, 0x03, 0x04, 0x05, 0x06, 0x07, 0x08, 0x0A, 0x0B, 0x12]

/-! ## The invariant -/

/-- Where the cursor stands in each phase of SHAKE32 (block 16, word 4) or SHAKE64 (block 96, word 8)
(10_state.md R24, R25; 41_shake32.md R100; 43_shake64.md R141). -/
def shakeCursor (block word : Nat) (dual : Bool) (len p : Nat) : Phase → Prop
  | .init => True
  | .bulk => block ∣ p ∧ p + block ≤ len
  | .lenfold => p = block * (len / block)
  | .condense => p = block * (len / block) ∧ block ≤ len
  | .words => block * (len / block) ≤ p ∧ word ∣ p ∧ p + word ≤ len
  | .bytes => p = len - len % word ∧ len % word ≠ 0
  | .dual => dual = true ∧ p = len
  | .final => p = len
  | .idle | .compute => False

/-- Where the cursor stands in each phase of STIR (44_stir.md R151). -/
def stirCursor (len p : Nat) : Phase → Prop
  | .init => True
  | .bytes => p < len
  | .final => p = len
  | .idle | .bulk | .lenfold | .condense | .words | .dual | .compute => False

/-- The phase is one of the command's, and the cursor stands where that phase has it (10_state.md R24, R25). -/
def cursorOk (i : Instr) (len p : Nat) (ph : Phase) : Prop :=
  match i with
  | .shake32 => shakeCursor 16 4 false len p ph
  | .shake64 dual => shakeCursor 96 8 dual len p ph
  | .stir => stirCursor len p ph
  | .rotl32 | .combine32 | .mix32 | .scramble32 | .rotl64 | .mix64 | .scramble64 => ph = .compute

/-- The guard term held is that of the captured seed (41_shake32.md R91; 43_shake64.md R131). -/
def guardHeld (i : Instr) (r : Regs) : Prop :=
  match i with
  | .shake32 => r.gd = zext64 (guardTerm Config.build (seed32 r.captured))
  | .shake64 _ => r.gd = guardTerm Config.build r.captured.seed
  | .stir | .rotl32 | .combine32 | .mix32 | .scramble32 | .rotl64 | .mix64 | .scramble64 => True

/-- What holds of a busy hasher: a legal command is captured, its range does not wrap, the cursor fits the
phase, and after INIT the guard term is held (10_state.md R24 to R26; 60_exceptions.md R162, R163). -/
structure CommandInProgress (s : State) (i : Instr) : Prop where
  legal : decode s.regs.captured.cmd = .ok i
  range : i.format = .h → addrWraps s.regs.captured = false
  cursor : cursorOk i s.regs.captured.len.toNat s.regs.pos.toNat s.phase
  guard : s.phase ≠ .init → guardHeld i s.regs

/-- The invariant: memory keeps its canonical form; a busy hasher has no response waiting and a command in
progress, and the earlier answers it keeps are of addresses of its message (20_memory.md R54). -/
structure MachineInv (s : State) : Prop where
  memory : s.mem.wf = true
  noResponse : s.phase ≠ .idle → s.response = none
  command : s.phase ≠ .idle → ∃ i, CommandInProgress s i
  held : s.phase ≠ .idle → ∀ x ∈ s.held, inMessage s.regs.captured x.1 = true

/-- A run that is over and may be counted: nothing left to do, nothing waiting, and no fault recorded
(60_exceptions.md R173: a faulted run is never final). That a run in which reset aborted a command may be final
is the model's choice: the spec says only that the command is not counted as completed
(70_reset_and_hazards.md R182), and it has no response among those received (log 29). -/
def State.finalRun (s : State) : Bool :=
  s.turns.isEmpty && !s.busy && s.request.isNone && s.response.isNone && !s.faulted

/-- An idle hasher with a request to accept and nothing before it: no response waits and no move is listed. -/
structure Ready (s : State) (q : Request) : Prop where
  idle : s.phase = .idle
  response : s.response = none
  request : s.request = some q
  turns : s.turns = []

/-- In some state of the first `n` steps from `s` in which the hasher is busy, memory gives the address this
answer: a byte, or none where it refuses (20_memory.md R51, R54). -/
def AnsweredDuring (s : State) (n : Nat) (addr : Word64) (answer : Option Byte) : Prop :=
  ∃ j u, j < n ∧ Sys2Proof.core.run j s = Host.Outcome.next u ∧ u.phase ≠ .idle ∧ u.mem.read addr = answer

/-! ## The number of phase steps (70_reset_and_hazards.md R190) -/

/-- The bound on the moves of the phase machine from acceptance to response: one acceptance, and R190's bound
on the phase steps (`len div B + (B div W - 1) + 6`; `len + 2` for STIR; the one computing step of a
primitive). -/
def moveBound (q : Request) : Nat :=
  match decode q.cmd with
  | .error _ => 1
  | .ok .shake32 => 1 + (q.len.toNat / 16 + (16 / 4 - 1) + 6)
  | .ok (.shake64 _) => 1 + (q.len.toNat / 96 + (96 / 8 - 1) + 6)
  | .ok .stir => 1 + (q.len.toNat + 2)
  | .ok .rotl32 | .ok .combine32 | .ok .mix32 | .ok .scramble32 | .ok .rotl64 | .ok .mix64
  | .ok .scramble64 => 1 + 1

/-! ## SHAKE32 and SHAKE64 by offsets (41_shake32.md R99; 43_shake64.md R140) -/

/-- `LE(msg[p .. p+n-1])`, as an unbounded integer. -/
def msgWord (msg : List Byte) (p n : Nat) : Nat := le ((msg.drop p).take n)

/-- SHAKE32 as 41_shake32.md R99 writes it: four lanes, a position that steps by 16 and then by 4. -/
def shake32Reference (c : Config) (sd : Word32) (len : Word64) (msg : List Byte) : Word32 :=
  let n := len.toNat
  let gd := if c.guardEn then sd else 0
  let w := fun p k => BitVec.ofNat 32 (msgWord msg p k)
  let bulk := (List.range (n / 16)).foldl
    (fun (s : Word32 × Word32 × Word32 × Word32) j =>
      (combine32 c s.1 (w (16 * j) 4) gd, combine32 c s.2.1 (w (16 * j + 4) 4) gd,
        combine32 c s.2.2.1 (w (16 * j + 8) 4) gd, combine32 c s.2.2.2 (w (16 * j + 12) 4) gd))
    (c.c32[0] + (sd - gd), c.c32[1], c.c32[2], c.c32[3])
  let s0 := combine32 c bulk.1 (low32 len) gd
  let s0 :=
    if 16 ≤ n then
      combine32 c (combine32 c s0 bulk.2.1 gd) (combine32 c bulk.2.2.1 bulk.2.2.2 gd) gd
    else s0
  let s0 := (List.range (n % 16 / 4)).foldl
    (fun s j => c.mix32 (s + gd) (w (16 * (n / 16) + 4 * j) 4)) s0
  let s0 := if n % 4 ≠ 0 then combine32 c s0 (w (n - n % 4) (n % 4)) gd else s0
  scramble32 c s0

/-- The twelve lanes of SHAKE64 after the bulk phase, as 43_shake64.md R140 writes it. -/
def bulk64Reference (c : Config) (sd len : Word64) (msg : List Byte) : Lanes64 :=
  let gd := if c.guardEn then sd else 0
  (List.range (len.toNat / 96)).foldl
    (fun s j =>
      c.round64 s (Vector.ofFn fun i : Fin 12 => BitVec.ofNat 64 (msgWord msg (96 * j + 8 * i.val) 8)) gd)
    (c.k64.set 0 (c.k64[0] ^^^ sd ^^^ gd))

/-- Lane 0 of SHAKE64 after every phase that reads the message, as 43_shake64.md R140 writes it. A source
lane 0, which the spec does not allow (42_primitives64.md R121), would be the lane as it stands. -/
def lane64Reference (c : Config) (sd len : Word64) (msg : List Byte) : Word64 :=
  let n := len.toNat
  let gd := if c.guardEn then sd else 0
  let w := fun p k => BitVec.ofNat 64 (msgWord msg p k)
  let bulk := bulk64Reference c sd len msg
  let s0 := mix64 c bulk[0] len gd
  let s0 :=
    if 96 ≤ n then
      c.cond64Src.foldl (fun (x : Word64) (j : Fin 12) => mix64 c x (if j = 0 then x else bulk[j]) gd) s0
    else s0
  let s0 := (List.range (n % 96 / 8)).foldl
    (fun s j => mix64 c s (w (96 * (n / 96) + 8 * j) 8) gd) s0
  if n % 8 ≠ 0 then mix64 c s0 (w (n - n % 8) (n % 8)) gd else s0

/-- The good response of a hash command on a message, by the rules' one-function forms (41_shake32.md R99;
43_shake64.md R140; 44_stir.md R151). A primitive command has no message. -/
def hashAnswer (i : Instr) (q : Request) (msg : List Byte) : Option Response :=
  let lane := lane64Reference Config.build q.seed q.len msg
  match i with
  | .shake32 => some (good32 (shake32Reference Config.build (q.seed.setWidth 32) q.len msg))
  | .shake64 false => some (good64 (scramble64 Config.build lane))
  | .shake64 true =>
    some
      { err := 0
        digest := some (scramble64 Config.build lane)
        digest2 := some (scramble64 Config.build
          (mix64 Config.build lane (bulk64Reference Config.build q.seed q.len msg)[2] 0))
        info := none }
  | .stir => some (good32
      (msg.foldl (fun h b => h * 0xAB64A9B3#32 + b.setWidth 32) (q.seed.setWidth 32)))
  | .rotl32 | .combine32 | .mix32 | .scramble32 | .rotl64 | .mix64 | .scramble64 => none

end Sys2Proof.Machine
end

