-- ==== Sys2Proof/Certificates/Slice0/Obligations.lean ====
section
/-! DEFINITION. The statements for the provers, from the numbered rules of spec/. OBLIGATIONS.json lists them. -/

open Sys2Proof Sys2Proof.Machine

/-! ## The command byte -/

/-- 30_encoding.md R62, R73: the byte of a command decodes to the command. -/
def Obligations.DecodeOfEncode : Prop := ∀ i : Instr, decode (encode i) = .ok i

/-- 30_encoding.md R62, R73: a byte that decodes is the byte of the command it decodes to. -/
def Obligations.EncodeOfDecode : Prop := ∀ (c : Byte) (i : Instr), decode c = .ok i → encode i = c

/-- 30_encoding.md R62: command bytes written out from the opcode map decode to their commands. -/
def Obligations.SpecBytesDecode : Prop :=
  decode 0x01 = .ok .shake32 ∧ decode 0x02 = .ok (.shake64 false) ∧ decode 0x12 = .ok (.shake64 true) ∧
  decode 0x03 = .ok .stir ∧ decode 0x05 = .ok .combine32 ∧ decode 0x0B = .ok .scramble64

/-- 30_encoding.md R73, whole: `RSV` first, then the lookup of `OP`, then `DUAL`. -/
def Obligations.DecodeOrder : Prop :=
  ∀ c : Byte,
    if c.toNat / 32 ≠ 0 then decode c = .error .rsvNotZero
    else if c.toNat % 16 ∉ [1, 2, 3, 4, 5, 6, 7, 8, 10, 11] then decode c = .error .noSuchOperation
    else if c.toNat / 16 % 2 = 1 ∧ c.toNat % 16 ≠ 2 then decode c = .error .dualNotShake64
    else ∃ i, decode c = .ok i ∧
      (∃ r ∈ opRows, r.pattern.toNat % 16 = c.toNat % 16 ∧ r.mnemonic = i.mnemonic ∧ r.format = i.format) ∧
      ∀ dual, i = .shake64 dual → dual = decide (c.toNat / 16 % 2 = 1)

/-- 30_encoding.md R62, whole: the rows are disjoint; a byte that a row selects decodes to a command with the
row's mnemonic and operand format; a byte that no row selects is reserved. -/
def Obligations.DecodeFollowsOpcodeMap : Prop :=
  (∀ (c : Byte) (r r' : OpRow), r ∈ opRows → r' ∈ opRows → r.selects c = true → r'.selects c = true → r = r') ∧
  (∀ (c : Byte) (r : OpRow), r ∈ opRows → r.selects c = true →
    ∃ i, decode c = .ok i ∧ i.mnemonic = r.mnemonic ∧ i.format = r.format) ∧
  (∀ c : Byte, (∀ r ∈ opRows, r.selects c = false) → ∀ i, decode c ≠ .ok i)

/-- 30_encoding.md R66 and 60_exceptions.md R162: the eleven legal bytes are the ones that decode; any other
raises `IllegalCommand` with the byte, and nothing is read or written. That the lanes keep their values is the
model's choice of R162 ("no lane is written") over 60_exceptions.md R164 ("dropped"): log 26. -/
def Obligations.ReservedByteRaisesIllegalCommand : Prop :=
  (∀ c : Byte, (∃ i, decode c = .ok i) ↔ c ∈ legalBytes) ∧
  ∀ s q, Ready s q → q.cmd ∉ legalBytes →
    ∃ t, step s = .next t ∧
      t.response = some { err := 1, digest := none, digest2 := none, info := some (q.cmd.setWidth 64) } ∧
      t.reads = s.reads ∧ t.regs.s32 = s.regs.s32 ∧ t.regs.s64 = s.regs.s64 ∧
      t.phase = .idle ∧ t.request = none ∧ t.turns = [] ∧ t.received = s.received ∧
      ∀ addr, t.mem.read addr = s.mem.read addr

/-- 30_encoding.md R71, R72: the command byte of each of the eleven written forms, the request field each of
its operands goes to, and the command it is; each pseudo-command stands for its one expansion. -/
def Obligations.WrittenFormsAndPseudoCommands : Prop :=
  (∀ addr len seed, ((Asm.shake32 addr len seed).toRequest.cmd = 0x01 ∧
    (Asm.shake32 addr len seed).toRequest.addr = addr ∧ (Asm.shake32 addr len seed).toRequest.len = len ∧
    (Asm.shake32 addr len seed).toRequest.seed = seed)) ∧
  (∀ addr len seed, ((Asm.shake64 addr len seed).toRequest.cmd = 0x02 ∧
    (Asm.shake64 addr len seed).toRequest.addr = addr ∧ (Asm.shake64 addr len seed).toRequest.len = len ∧
    (Asm.shake64 addr len seed).toRequest.seed = seed)) ∧
  (∀ addr len seed, ((Asm.shake64d addr len seed).toRequest.cmd = 0x12 ∧
    (Asm.shake64d addr len seed).toRequest.addr = addr ∧ (Asm.shake64d addr len seed).toRequest.len = len ∧
    (Asm.shake64d addr len seed).toRequest.seed = seed)) ∧
  (∀ addr len hash, ((Asm.stir addr len hash).toRequest.cmd = 0x03 ∧
    (Asm.stir addr len hash).toRequest.addr = addr ∧ (Asm.stir addr len hash).toRequest.len = len ∧
    (Asm.stir addr len hash).toRequest.seed = hash)) ∧
  (∀ a r, ((Asm.rotl32 a r).toRequest.cmd = 0x04 ∧
    (Asm.rotl32 a r).toRequest.a = a ∧ (Asm.rotl32 a r).toRequest.b = r)) ∧
  (∀ a b g, ((Asm.combine32 a b g).toRequest.cmd = 0x05 ∧ (Asm.combine32 a b g).toRequest.a = a ∧
    (Asm.combine32 a b g).toRequest.b = b ∧ (Asm.combine32 a b g).toRequest.g = g)) ∧
  (∀ a b g, ((Asm.mix32 a b g).toRequest.cmd = 0x06 ∧ (Asm.mix32 a b g).toRequest.a = a ∧
    (Asm.mix32 a b g).toRequest.b = b ∧ (Asm.mix32 a b g).toRequest.g = g)) ∧
  (∀ a, ((Asm.scramble32 a).toRequest.cmd = 0x07 ∧ (Asm.scramble32 a).toRequest.a = a)) ∧
  (∀ a r, ((Asm.rotl64 a r).toRequest.cmd = 0x08 ∧
    (Asm.rotl64 a r).toRequest.a = a ∧ (Asm.rotl64 a r).toRequest.b = r)) ∧
  (∀ a b g, ((Asm.mix64 a b g).toRequest.cmd = 0x0A ∧ (Asm.mix64 a b g).toRequest.a = a ∧
    (Asm.mix64 a b g).toRequest.b = b ∧ (Asm.mix64 a b g).toRequest.g = g)) ∧
  (∀ a, ((Asm.scramble64 a).toRequest.cmd = 0x0B ∧ (Asm.scramble64 a).toRequest.a = a)) ∧
  (∀ f : Asm, decode f.toRequest.cmd = .ok f.instr) ∧
  (∀ a b, (Pseudo.combine32 a b).expand.toRequest = (Asm.combine32 a b 0).toRequest) ∧
  (∀ a b, (Pseudo.mix32 a b).expand.toRequest = (Asm.mix32 a b 0).toRequest) ∧
  (∀ a b, (Pseudo.mix64 a b).expand.toRequest = (Asm.mix64 a b 0).toRequest) ∧
  (∀ addr len seed, (Pseudo.shake64d addr len seed).expand.toRequest = (Asm.shake64d addr len seed).toRequest)

/-! ## The step -/

/-- 10_state.md R30, R31: when an idle hasher has a request whose byte decodes, the step captures the request
and runs the command; of the hasher, acceptance changes the request channel and the captured request only. It
also empties the model's record of changed answers (log 12). -/
def Obligations.StepRunsDecodedCommand : Prop :=
  ∀ s q i, Ready s q → decode q.cmd = .ok i →
    step s = exec i { s with request := none, regs := { s.regs with captured := q }, held := [] } ∧
    ∀ rest, step { s with turns := .hasher :: rest } =
      exec i { s with turns := rest, request := none, regs := { s.regs with captured := q }, held := [] }

/-- 70_reset_and_hazards.md R186 and 93_implementation_defined.md U14: with a response waiting, or with no
request, an idle hasher with no move listed does nothing. That the step then leaves the state as it is, is the
model's choice (log 4). -/
def Obligations.NothingEnabledChangesNothing : Prop :=
  ∀ s, s.turns = [] → s.phase = .idle → (s.response ≠ none ∨ s.request = none) → step s = .next s

/-- 10_state.md R30: the host presents a request on an empty channel, and takes a response that waits; nothing
else changes. The order of moves is the model's (log 3). -/
def Obligations.HostPresentsAndTakes : Prop :=
  (∀ s q rest, s.turns = .present q :: rest → s.request = none →
    step s = .next { s with turns := rest, request := some q }) ∧
  (∀ s p rest, s.turns = .take :: rest → s.response = some p →
    step s = .next { s with turns := rest, response := none, received := s.received ++ [p] })

/-- 70_reset_and_hazards.md R186: a request presented while one waits, and a taking where no response waits, is
not lost and does not disturb what is there: the move stays first in the list, the responses taken stay, and
the hasher makes in its place exactly the move it makes with no move listed. That the host's move waits there is
the model's choice (log 4). -/
def Obligations.BlockedHostMovesStay : Prop :=
  ∀ s, MachineInv s →
    (∀ q rest, s.turns = .present q :: rest → s.request ≠ none →
      ∃ t, step { s with turns := [] } = .next t ∧ step s = .next { t with turns := .present q :: rest } ∧
        t.received = s.received) ∧
    (∀ rest, s.turns = .take :: rest → s.response = none →
      ∃ t, step { s with turns := [] } = .next t ∧ step s = .next { t with turns := .take :: rest } ∧
        t.received = s.received)

/-- 10_state.md R29, R31; 20_memory.md R56; 70_reset_and_hazards.md R186: while the hasher is busy a waiting
request stays as it is, and the captured one does not change before the command ends. -/
def Obligations.BusyHoldsRequests : Prop :=
  ∀ s t, s.phase ≠ .idle → (∀ rest, s.turns ≠ .reset :: rest) → step s = .next t →
    (s.request ≠ none → t.request = s.request) ∧
    (t.phase ≠ .idle → t.regs.captured = s.regs.captured)

/-- 70_reset_and_hazards.md R180, R182: reset is enabled in every state; no response is emitted for the
command it aborts, no read is made, both channels are empty, memory is not touched. -/
def Obligations.ResetAbortsTheCommand : Prop :=
  ∀ s rest, s.turns = .reset :: rest →
    ∃ t, step s = .next t ∧ t.phase = .idle ∧ t.busy = false ∧ t.request = none ∧ t.response = none ∧
      t.received = s.received ∧ t.reads = s.reads ∧ t.turns = rest ∧
      ∀ addr, t.mem.read addr = s.mem.read addr

/-- 10_state.md R35: what reset leaves. -/
def Obligations.ResetState : Prop :=
  State.reset.phase = .idle ∧ State.reset.busy = false ∧ State.reset.request = none ∧
  State.reset.response = none

/-- 20_memory.md R40, 10_state.md R33: no move of the hasher changes a byte of memory; a write of the host's
changes the one byte and nothing of the hasher. That a written address answers with the byte, one that was
refused before too, is the model's choice (log 24). -/
def Obligations.OnlyTheHostWritesMemory : Prop :=
  (∀ s t, (∀ a b rest, s.turns ≠ .write a b :: rest) → (∀ a rest, s.turns ≠ .unmap a :: rest) →
    step s = .next t → ∀ addr, t.mem.read addr = s.mem.read addr) ∧
  (∀ s a b rest, s.turns = .write a b :: rest →
    ∃ t, step s = .next t ∧ t.mem.read a = some b ∧ (∀ x, x ≠ a → t.mem.read x = s.mem.read x) ∧
      t.regs = s.regs ∧ t.phase = s.phase ∧ t.request = s.request ∧ t.response = s.response)

/-- 20_memory.md R54, R185: a host write into the message of a command in flight takes effect, and the answer
it replaces joins those the address gave during the command; no other address and nothing of the hasher
changes. The record of answers is the model's oracle for R54 (log 12). -/
def Obligations.WriteInFlightKeepsTheOldAnswer : Prop :=
  ∀ s a b rest i, s.turns = .write a b :: rest → s.phase ≠ .idle → decode s.regs.captured.cmd = .ok i →
    i.format = .h → s.regs.captured.addr.toNat ≤ a.toNat →
    a.toNat < s.regs.captured.addr.toNat + s.regs.captured.len.toNat →
    ∃ t, step s = .next t ∧ t.mem.read a = some b ∧ t.answers a = some b :: s.answers a ∧
      (∀ x, x ≠ a → t.answers x = s.answers x) ∧ t.phase = s.phase ∧ t.regs = s.regs ∧
      t.request = s.request ∧ t.response = s.response ∧ t.reads = s.reads

/-- 20_memory.md R54: the answers kept for an address of the message are exactly those it gave since
acceptance. At acceptance there is the one; each later step of the command adds what memory answers then and
loses none. The record is the model's oracle for R54 (log 12). -/
def Obligations.AnswersAreThoseSinceAcceptance : Prop :=
  (∀ s t, step s = .next t → s.phase = .idle → t.phase ≠ .idle → ∀ x, t.answers x = [t.mem.read x]) ∧
  (∀ s t, step s = .next t → s.phase ≠ .idle → t.phase ≠ .idle → ∀ x, s.inFlight x = true →
    ∀ r, r ∈ t.answers x ↔ r = t.mem.read x ∨ r ∈ s.answers x)

/-- 60_exceptions.md R173: a recorded fault stays recorded, a step that emits a fault response records it, and
a run with a fault recorded is never final. The record is the model's own (log 13). -/
def Obligations.FaultStaysRecorded : Prop :=
  (∀ s t, step s = .next t → s.faulted = true → t.faulted = true ∧ t.finalRun = false) ∧
  (∀ s t p, step s = .next t → s.response = none → t.response = some p → p.err ≠ 0 → t.faulted = true)

/-! ## Responses as functions of the request and the message -/

/-- 60_exceptions.md R160, R166: the first check that applies decides the response. -/
def Obligations.FaultPriority : Prop :=
  ∀ s q, Ready s q → ∃ t p, step s = .next t ∧ t.response = some p ∧ t.phase = .idle ∧
    ((∀ i, decode q.cmd ≠ .ok i) → p.err = 1 ∧ p.info = some (q.cmd.setWidth 64)) ∧
    (∀ i, decode q.cmd = .ok i → i.format = .h → ¬ rangeFits q → p.err = 2 ∧ p.info = some q.addr) ∧
    (∀ i k, decode q.cmd = .ok i → i.format = .h → rangeFits q → k < q.len.toNat →
      (∀ j, j < k → s.mem.read (q.addr + BitVec.ofNat 64 j) ≠ none) →
      s.mem.read (q.addr + BitVec.ofNat 64 k) = none →
      p.err = 3 ∧ p.info = some (q.addr + BitVec.ofNat 64 k)) ∧
    (∀ i, decode q.cmd = .ok i → (i.format = .h → rangeFits q ∧ messageReadable s.mem q) →
      p.err = 0 ∧ p.digest ≠ none ∧ p.info = none)

/-- 00_scope.md R6: the response depends only on the request and the bytes of its message; not on registers,
on memory elsewhere, or on any earlier command. -/
def Obligations.ResponseFromRequestAndMessageOnly : Prop :=
  ∀ s s' q, Ready s q → Ready s' q →
    (∀ k, k < q.len.toNat →
      s.mem.read (q.addr + BitVec.ofNat 64 k) = s'.mem.read (q.addr + BitVec.ofNat 64 k)) →
    ∃ t t', step s = .next t ∧ step s' = .next t' ∧ t.response = t'.response

/-- 30_encoding.md R63, R64: a field the command does not read, and bits 63 to 32 of a 32-bit command's
operands, change nothing. -/
def Obligations.UnreadFieldsAreIgnored : Prop :=
  ∀ s q q' i, Ready s q → decode q.cmd = .ok i → q'.cmd = q.cmd → sameOperands i q q' →
    step { s with request := some q' } = step s

/-- 30_encoding.md R69: a 32-bit command's digest has bits 63 to 32 zero. -/
def Obligations.ThirtyTwoBitDigestsAreZeroExtended : Prop :=
  ∀ i ∈ [Instr.shake32, .stir, .rotl32, .combine32, .mix32, .scramble32], ∀ s,
    ∃ t p, exec i s = .next t ∧ t.response = some p ∧
      ∀ d, p.digest = some d → ∃ r : Word32, d = r.setWidth 64 ∧ d.extractLsb' 32 32 = 0#32

/-- 20_memory.md R48: a command with `len = 0` reads nothing, whatever `addr` is, and does not fault. -/
def Obligations.EmptyMessageIsNeverRead : Prop :=
  ∀ i s, i.format = .h → s.regs.captured.len = 0 →
    ∃ t p, exec i s = .next t ∧ t.reads = s.reads ∧ t.response = some p ∧ p.err = 0

/-! ## The primitives -/

/-- 40_primitives32.md R81: bit `k` of the result is bit `k - b` modulo 32 of `a[31:0]`. -/
def Obligations.Rotl32Result : Prop :=
  ∀ s, ∃ t r, exec .rotl32 s = .next t ∧ t.response = some (good32 r) ∧
    (∀ k, k < 32 → r.getLsbD k =
      s.regs.captured.a.getLsbD ((k + 32 - s.regs.captured.b.toNat % 32) % 32)) ∧
    PrimitiveFrame s t

/-- 42_primitives64.md R111: bit `k` of the result is bit `k - b` modulo 64 of `a`. -/
def Obligations.Rotl64Result : Prop :=
  ∀ s, ∃ t r, exec .rotl64 s = .next t ∧ t.response = some (good64 r) ∧
    (∀ k, k < 64 → r.getLsbD k =
      s.regs.captured.a.getLsbD ((k + 64 - s.regs.captured.b.toNat % 64) % 64)) ∧
    PrimitiveFrame s t

/-- 40_primitives32.md R82: multiply the word, add it and the increment to the lane, rotate by 14, multiply. -/
def Obligations.Combine32Result : Prop :=
  ∀ s, ∃ t, exec .combine32 s = .next t ∧
    t.response = some (good32
      ((s.regs.captured.a.setWidth 32 + s.regs.captured.g.setWidth 32 +
        s.regs.captured.b.setWidth 32 * Config.build.m1).rotateLeft 14 * Config.build.m2)) ∧
    PrimitiveFrame s t

/-- 40_primitives32.md R83: `mix32(a + g, b)`, the increment outside `mix32`. -/
def Obligations.Mix32Result : Prop :=
  ∀ s, ∃ t, exec .mix32 s = .next t ∧
    t.response = some (good32
      (Config.build.mix32 (s.regs.captured.a.setWidth 32 + s.regs.captured.g.setWidth 32)
        (s.regs.captured.b.setWidth 32))) ∧
    PrimitiveFrame s t

/-- 40_primitives32.md R85: xor-shift, multiply, xor-shift, multiply, xor-shift. -/
def Obligations.Scramble32Result : Prop :=
  ∀ s, ∃ t h1 h2, exec .scramble32 s = .next t ∧
    h1 = (s.regs.captured.a.setWidth 32 ^^^ (s.regs.captured.a.setWidth 32 >>> Config.build.sr1.toNat)) *
      Config.build.sm1 ∧
    h2 = (h1 ^^^ (h1 >>> Config.build.sr2.toNat)) * Config.build.sm2 ∧
    t.response = some (good32 (h2 ^^^ (h2 >>> Config.build.sr3.toNat))) ∧
    PrimitiveFrame s t

/-- 42_primitives64.md R112: the word multiplied, rotated by 14 and multiplied; xored into the lane; the lane
rotated by 5 and multiplied by 9. -/
def Obligations.Mix64Result : Prop :=
  ∀ s, ∃ t, exec .mix64 s = .next t ∧
    t.response = some (good64
      (((s.regs.captured.a + s.regs.captured.g) ^^^
        ((s.regs.captured.b * Config.build.p1).rotateLeft 14 * Config.build.p2)).rotateLeft 5 * 9)) ∧
    PrimitiveFrame s t

/-- 42_primitives64.md R114 to R116: xor-shift, multiply, the triangular number over the unbounded integers,
xor-shift. -/
def Obligations.Scramble64Result : Prop :=
  ∀ s, ∃ t n, exec .scramble64 s = .next t ∧
    n = (s.regs.captured.a ^^^ (s.regs.captured.a >>> 32)) * Config.build.q1 ∧
    t.response = some (good64
      (BitVec.ofNat 64 (n.toNat * (n.toNat + 1) / 2) ^^^
        (BitVec.ofNat 64 (n.toNat * (n.toNat + 1) / 2) >>> 32))) ∧
    PrimitiveFrame s t

/-- 10_state.md R24, R26: every command ends in a next state in which the registers besides the lanes that it
has no use for are as they were. The spec gives an idle hasher's registers no value; that these keep theirs is
the model's reading (log 10). -/
def Obligations.UnusedRegistersAreKept : Prop :=
  ∀ i s, ∃ t, exec i s = .next t ∧ keepsUnused i s.regs t.regs

/-- 40_primitives32.md R82; 42_primitives64.md R112: the guard increment is added to the lane. -/
def Obligations.GuardIncrementJoinsLane : Prop :=
  (∀ c h w g, combine32 c h w g = combine32 c (h + g) w 0) ∧
  (∀ c h w g, mix64 c h w g = mix64 c (h + g) w 0)

/-- 40_primitives32.md R82: for odd multipliers COMBINE32 is a bijection in the lane. -/
def Obligations.Combine32Bijective : Prop :=
  ∀ (c : Config) (w g : Word32), c.m1.getLsbD 0 = true → c.m2.getLsbD 0 = true →
    Function.Bijective fun h => combine32 c h w g

/-- 40_primitives32.md R85: for odd `SM1`, `SM2` SCRAMBLE32 is a bijection. -/
def Obligations.Scramble32Bijective : Prop :=
  ∀ c : Config, c.shiftsInRange = true → c.sm1.getLsbD 0 = true → c.sm2.getLsbD 0 = true →
    Function.Bijective (scramble32 c)

/-- 42_primitives64.md R112: MIX64 is a bijection in the lane, for every configuration. -/
def Obligations.Mix64Bijective : Prop :=
  ∀ (c : Config) (w g : Word64), Function.Bijective fun h => mix64 c h w g

/-- 42_primitives64.md R116: the form in 64-bit operations and the triangular number agree everywhere, the
all-ones input included. -/
def Obligations.Tri64FormsAgree : Prop := ∀ n : Word64, tri64 n = tri64Exact n

/-- 42_primitives64.md R117: `tri64` is a bijection and is not its own inverse. -/
def Obligations.Tri64Bijective : Prop := Function.Bijective tri64 ∧ tri64 (tri64 2) = 6

/-- 42_primitives64.md R114: for odd `Q1` SCRAMBLE64 is a bijection. -/
def Obligations.Scramble64Bijective : Prop :=
  ∀ c : Config, c.q1.getLsbD 0 = true → Function.Bijective (scramble64 c)

/-- 42_primitives64.md R121: the condensation writes no lane but lane 0. -/
def Obligations.CondenseWritesLaneZeroOnly : Prop :=
  ∀ (c : Config) (s : Lanes64) (g : Word64) (j : Fin 12), j ≠ 0 → (condense64 c s g)[j] = s[j]

/-- 40_primitives32.md R84: corner cases of the default shape of `mix32`. -/
def Obligations.DefaultMixCorners : Prop :=
  (∀ x1 xr1 x2 xr2 x3, mix32Default x1 xr1 x2 xr2 x3 0 0 = 0) ∧
  (∀ x1 xr1 x2 xr2 x3 h, mix32Default x1 xr1 x2 xr2 x3 h 0 = h.rotateLeft xr2.toNat * x3)

/-! ## Message bytes -/

/-- 20_memory.md R43, R44: byte `k` has weight `2^(8k)`, and a 64-bit word is its two 32-bit words. -/
def Obligations.LittleEndianWords : Prop :=
  (∀ bs : List Byte, le bs = ∑ k ∈ Finset.range bs.length, (bs.getD k 0).toNat * 2 ^ (8 * k)) ∧
  (∀ lo hi : List Byte, lo.length = 4 → hi.length = 4 →
    word64 (lo ++ hi) = (word32 lo).setWidth 64 + (word32 hi).setWidth 64 * 0x100000000#64)

/-- 20_memory.md R45: a sub-word tail is the containing word with its higher bytes zeroed. -/
def Obligations.SubWordTailZeroesHigherBytes : Prop :=
  (∀ bs rest : List Byte, 1 ≤ bs.length → bs.length ≤ 3 → bs.length + rest.length = 4 →
    word32 bs = word32 (bs ++ rest) &&& BitVec.ofNat 32 (2 ^ (8 * bs.length) - 1)) ∧
  (∀ bs rest : List Byte, 1 ≤ bs.length → bs.length ≤ 7 → bs.length + rest.length = 8 →
    word64 bs = word64 (bs ++ rest) &&& BitVec.ofNat 64 (2 ^ (8 * bs.length) - 1))

/-- 41_shake32.md R100 and 43_shake64.md R141: the phase counts partition the length. -/
def Obligations.PhaseCountsPartitionLength : Prop :=
  ∀ len : Nat,
    (16 * nblk 16 len + 4 * nw 16 4 len + nb 4 len = len ∧ nw 16 4 len ≤ 3 ∧ nb 4 len ≤ 3) ∧
    (96 * nblk 96 len + 8 * nw 96 8 len + nb 8 len = len ∧ nw 96 8 len ≤ 11 ∧ nb 8 len ≤ 7)

/-! ## The hash commands -/

/-- 44_stir.md R150, R151, R156: the three ends of STIR; the good one multiplies, then adds each byte,
unsigned, in order. No lane is written;
that in the two fault ends the lanes keep their values, where 60_exceptions.md R164 drops them, is the model's
reading (log 10). -/
def Obligations.StirResult : Prop :=
  ∀ s, HashEnds .stir s
    (fun msg => good32
      (msg.foldl (fun h b => h * 0xAB64A9B3#32 + b.setWidth 32) (s.regs.captured.seed.setWidth 32)))
    (fun r r' => r'.s32 = r.s32 ∧ r'.s64 = r.s64)

/-- 41_shake32.md R90, R99: the three ends of SHAKE32; the good one is R99's function of the message.
That `s64` keeps its values in the two fault ends, where 60_exceptions.md R164 drops the lanes, is the model's
reading (log 10). -/
def Obligations.Shake32Result : Prop :=
  ∀ s, HashEnds .shake32 s
    (fun msg => good32
      (shake32Reference Config.build (s.regs.captured.seed.setWidth 32) s.regs.captured.len msg))
    (fun r r' => r'.s64 = r.s64)

/-- 43_shake64.md R130, R140: the three ends of SHAKE64, without and with the second digest. That
`s32` keeps its values in the two fault ends, where 60_exceptions.md R164 drops the lanes, is the model's
reading (log 10). -/
def Obligations.Shake64Result : Prop :=
  (∀ s, HashEnds (.shake64 false) s
    (fun msg => good64
      (scramble64 Config.build (lane64Reference Config.build s.regs.captured.seed s.regs.captured.len msg)))
    (fun r r' => r'.s32 = r.s32)) ∧
  (∀ s, HashEnds (.shake64 true) s
    (fun msg =>
      { err := 0
        digest := some (scramble64 Config.build
          (lane64Reference Config.build s.regs.captured.seed s.regs.captured.len msg))
        digest2 := some (scramble64 Config.build
          (mix64 Config.build
            (lane64Reference Config.build s.regs.captured.seed s.regs.captured.len msg)
            (bulk64Reference Config.build s.regs.captured.seed s.regs.captured.len msg)[2] 0))
        info := none })
    (fun r r' => r'.s32 = r.s32))

/-- 44_stir.md R153: chaining over fragments, the closed form, and affinity in the running hash. -/
def Obligations.StirChaining : Prop :=
  (∀ (h : Word32) (xs ys : List Byte), stirHash (stirHash h xs) ys = stirHash h (xs ++ ys)) ∧
  (∀ (h : Word32) (msg : List Byte),
    stirHash h msg = h * 0xAB64A9B3#32 ^ msg.length +
      ∑ k ∈ Finset.range msg.length,
        (msg.getD k 0).setWidth 32 * 0xAB64A9B3#32 ^ (msg.length - 1 - k)) ∧
  (∀ (h : Word32) (msg : List Byte), stirHash h msg = stirHash 0 msg + h * 0xAB64A9B3#32 ^ msg.length)

/-- 44_stir.md R152: STIR of no byte gives back the running hash. -/
def Obligations.StirOfEmptyMessage : Prop :=
  ∀ s, s.regs.captured.len = 0 → ∃ t, exec .stir s = .next t ∧ t.reads = s.reads ∧
    t.response = some (good32 (s.regs.captured.seed.setWidth 32))

/-- 41_shake32.md R101: the digest of the empty message, the same in both builds. -/
def Obligations.Shake32OfEmptyMessage : Prop :=
  ∀ s, s.regs.captured.len = 0 → ∃ t, exec .shake32 s = .next t ∧ t.reads = s.reads ∧
    t.response = some (good32 (scramble32 Config.build
      ((Config.build.c32[0] + s.regs.captured.seed.setWidth 32).rotateLeft 14 * Config.build.m2)))

/-- 43_shake64.md R142: the digest of the empty message; the seed is added with the guard on and xored with
it off. -/
def Obligations.Shake64OfEmptyMessage : Prop :=
  ∀ s dual, s.regs.captured.len = 0 → ∃ t p, exec (.shake64 dual) s = .next t ∧ t.reads = s.reads ∧
    t.response = some p ∧
    p.digest = some (scramble64 Config.build
      ((if Config.build.guardEn then Config.build.k64[0] + s.regs.captured.seed
        else Config.build.k64[0] ^^^ s.regs.captured.seed).rotateLeft 5 * 9))

/-- 43_shake64.md R143: the primary digest does not depend on DUAL, and the DUAL step writes no lane of either
file. -/
def Obligations.PrimaryDigestIgnoresDual : Prop :=
  (∀ s, ∃ t t' p p', exec (.shake64 false) s = .next t ∧ exec (.shake64 true) s = .next t' ∧
    t.response = some p ∧ t'.response = some p' ∧
    p.digest = p'.digest ∧ p.err = p'.err ∧ p.info = p'.info) ∧
  (∀ s, s.phase = .dual → s.regs.captured.cmd = 0x12 →
    ∃ t, phaseStep Config.build s = .next t ∧ t.regs.s64 = s.regs.s64 ∧ t.regs.s32 = s.regs.s32)

/-- 41_shake32.md R102; 43_shake64.md R144: with seed 0 the two builds agree on every message. -/
def Obligations.SeedZeroBuildsAgree : Prop :=
  (∀ (c : Config) len msg, shake32Digest { c with guardEn := true } 0 len msg =
    shake32Digest { c with guardEn := false } 0 len msg) ∧
  (∀ (c : Config) dual len msg,
    answer64 { c with guardEn := true } dual (shake64Lanes { c with guardEn := true } 0 len msg) =
    answer64 { c with guardEn := false } dual (shake64Lanes { c with guardEn := false } 0 len msg))

/-- 41_shake32.md R95, R103: below one block the constants of lanes 1 to 3 do not influence the digest. -/
def Obligations.ShortMessagesUseLaneZeroOnly : Prop :=
  ∀ (c : Config) (lanes : Lanes32) sd (len : Word64) msg, len.toNat < 16 → lanes[0] = c.c32[0] →
    shake32Digest { c with c32 := lanes } sd len msg = shake32Digest c sd len msg

/-! ## The phase machine -/

/-- 10_state.md R35: the invariant holds after reset. -/
def Obligations.InvAtReset : Prop := MachineInv State.reset

/-- 10_state.md R24 to R26, R29: every step, from every state with the invariant, keeps it: memory stays in
canonical form, the phase is one of the command's, the cursor stands where the phase has it and inside the
message, the guard term is the seed's, and no response waits while busy. -/
def Obligations.StepKeepsInv : Prop := ∀ s t, MachineInv s → step s = .next t → MachineInv t

/-- 10_state.md R25: with the invariant, the phase machine never meets a phase its command has not. -/
def Obligations.InvStatesNeverFault : Prop := ∀ s f, MachineInv s → step s ≠ .fault f

/-- 10_state.md R24: the cursor grows by exactly the bytes a step reads, and stays inside the message. -/
def Obligations.CursorGrowsByBytesRead : Prop :=
  ∀ s t i, MachineInv s → s.phase ≠ .idle → s.phase ≠ .init → decode s.regs.captured.cmd = .ok i → i.format = .h →
    (∀ rest, s.turns ≠ .reset :: rest) → step s = .next t → t.phase ≠ .idle →
    t.regs.pos.toNat + s.reads.length = s.regs.pos.toNat + t.reads.length ∧
    s.regs.pos.toNat ≤ t.regs.pos.toNat ∧ t.regs.pos.toNat ≤ s.regs.captured.len.toNat

/-- 20_memory.md R42, R47, R54: whatever a step reads, it reads in the message of the command it runs: the
captured request's when busy, the request's it accepts when idle. It gets a byte the address answered since
acceptance; in the one atomic step, the byte that stands there. -/
def Obligations.ReadsStayInsideTheMessage : Prop :=
  ∀ s t, MachineInv s → step s = .next t → ∃ new, t.reads = s.reads ++ new ∧
    ∀ x ∈ new,
      (s.phase ≠ .idle → inMessage s.regs.captured x.1 = true ∧ some x.2 ∈ s.answers x.1) ∧
      (s.phase = .idle → s.mem.read x.1 = some x.2 ∧
        ∃ q, s.request = some q ∧ inMessage q x.1 = true)

/-- 20_memory.md R54, R42; 60_exceptions.md R163, R165: what the response of a hash command says, whatever the
host writes and withdraws while it runs. A good response is the digest of a byte sequence; with `err` 3, `info`
is the address after a shorter sequence, inside the message, which memory refused at some moment during the
command. Either sequence was read once each, in order, nothing else was, and each byte of it is one that its
address held at some moment during the command. Otherwise the range wraps, `err` is 2, and nothing was read. The
host does not take the response or reset in between. -/
def Obligations.ResponseIsDigestOfBytesHeld : Prop :=
  ∀ s t q i moves n p, s.phase = .idle → s.response = none → s.request = some q → decode q.cmd = .ok i →
    i.format = .h → s.turns = .phase :: moves → .take ∉ moves → .reset ∉ moves →
    Sys2Proof.core.run n s = Host.Outcome.next t → t.response = some p →
    (rangeFits q → ∃ msg, t.reads = s.reads ++ messageReads q.addr msg ∧
      (∀ k b, msg[k]? = some b → AnsweredDuring s n (q.addr + BitVec.ofNat 64 k) (some b)) ∧
      ((msg.length = q.len.toNat ∧ p.err = 0 ∧ hashAnswer i q msg = some p) ∨
        (msg.length < q.len.toNat ∧
          p = { err := 3, digest := none, digest2 := none,
                info := some (q.addr + BitVec.ofNat 64 msg.length) } ∧
          AnsweredDuring s n (q.addr + BitVec.ofNat 64 msg.length) none))) ∧
    (¬ rangeFits q → t.reads = s.reads ∧
      p = { err := 2, digest := none, digest2 := none, info := some q.addr })

/-- 10_state.md R30, R25 and 70_reset_and_hazards.md R190: run one phase at a time, every command ends within
R190's bound in exactly the state the one atomic step gives. -/
def Obligations.PhaseMachineRefinesAtomicStep : Prop :=
  ∀ s q, Ready s q → ∃ k t, 1 ≤ k ∧ k ≤ moveBound q ∧ step s = .next t ∧
    Sys2Proof.core.run k { s with turns := List.replicate k .phase } = Host.Outcome.next t
end

