-- ==== Sys2Proof/Laws/Hash.lean ====
section
/-! SUPPORT. The repeated phases of the hash commands as folds over their index, and lane 0 of the tails. -/

namespace Sys2Proof.Machine

theorem blocks32_foldl (c : Config) (gd : Word32) : ∀ (n : Nat) (s : Lanes32) (bs : List Byte),
    blocks32 c gd n s bs = (List.range n).foldl (fun s j => block32 c gd s ((bs.drop (16 * j)).take 16)) s
  | 0, s, bs => rfl
  | n + 1, s, bs => by
    rw [List.range_succ_eq_map, List.foldl_cons, List.foldl_map, blocks32, blocks32_foldl]
    simp [Nat.mul_add, Nat.add_comm]

theorem wordTails32_foldl (c : Config) (gd : Word32) : ∀ (n : Nat) (s : Lanes32) (bs : List Byte),
    wordTails32 c gd n s bs = (List.range n).foldl (fun s j => wordTail32 c gd s ((bs.drop (4 * j)).take 4)) s
  | 0, s, bs => rfl
  | n + 1, s, bs => by
    rw [List.range_succ_eq_map, List.foldl_cons, List.foldl_map, wordTails32, wordTails32_foldl]
    simp [Nat.mul_add, Nat.add_comm]

theorem blocks64_foldl (c : Config) (gd : Word64) : ∀ (n : Nat) (s : Lanes64) (bs : List Byte),
    blocks64 c gd n s bs = (List.range n).foldl (fun s j => block64 c gd s ((bs.drop (96 * j)).take 96)) s
  | 0, s, bs => rfl
  | n + 1, s, bs => by
    rw [List.range_succ_eq_map, List.foldl_cons, List.foldl_map, blocks64, blocks64_foldl]
    simp [Nat.mul_add, Nat.add_comm]

theorem wordTails64_foldl (c : Config) (gd : Word64) : ∀ (n : Nat) (s : Lanes64) (bs : List Byte),
    wordTails64 c gd n s bs = (List.range n).foldl (fun s j => tail64 c gd s ((bs.drop (8 * j)).take 8)) s
  | 0, s, bs => rfl
  | n + 1, s, bs => by
    rw [List.range_succ_eq_map, List.foldl_cons, List.foldl_map, wordTails64, wordTails64_foldl]
    simp [Nat.mul_add, Nat.add_comm]

theorem wordTails32_lane0 (c : Config) (gd : Word32) (f : Nat → List Byte) : ∀ (l : List Nat) (s : Lanes32),
    (l.foldl (fun s j => wordTail32 c gd s (f j)) s)[0] =
      l.foldl (fun x j => c.mix32 (x + gd) (word32 (f j))) s[0]
  | [], s => rfl
  | j :: l, s => by
    rw [List.foldl_cons, List.foldl_cons, wordTails32_lane0 c gd f l]
    simp [wordTail32]

theorem wordTails64_lane0 (c : Config) (gd : Word64) (f : Nat → List Byte) : ∀ (l : List Nat) (s : Lanes64),
    (l.foldl (fun s j => tail64 c gd s (f j)) s)[0] =
      l.foldl (fun x j => mix64 c x (word64 (f j)) gd) s[0]
  | [], s => rfl
  | j :: l, s => by
    rw [List.foldl_cons, List.foldl_cons, wordTails64_lane0 c gd f l]
    simp [tail64]

end Sys2Proof.Machine
end

