-- ==== Sys2Proof/Laws/Memory.lean ====
section
/-! SUPPORT. Message memory: every operation keeps the canonical form, a byte reads as it was last written,
and what a run of reads gives. -/

namespace Sys2Proof.Machine

/-! ## Canonical form -/

theorem Memory.wf_iff (m : Memory) :
    m.wf = true ↔ (m.Pairwise fun x y => x.1 < y.1) ∧ ∀ c ∈ m, c.1 < 2 ^ 64 := by
  simp [Memory.wf]

/-- The addresses after putting a cell in: the old ones and the new one. -/
theorem Memory.mem_putCell {m : Memory} {a : Nat} {b : Byte} {x : Host.Cell} (h : x ∈ m.putCell a b) :
    x.1 = a ∨ x ∈ m := by
  induction m with
  | nil => simp_all [Memory.putCell]
  | cons c m ih =>
    simp only [Memory.putCell] at h
    split at h
    · rcases List.mem_cons.1 h with h | h
      · exact .inl (by rw [h])
      · exact .inr h
    · split at h
      · rcases List.mem_cons.1 h with h | h
        · exact .inl (by rw [h])
        · exact .inr (List.mem_cons_of_mem _ h)
      · rcases List.mem_cons.1 h with h | h
        · exact .inr (by simp [h])
        · exact (ih h).imp_right (List.mem_cons_of_mem _)

theorem Memory.putCell_pairwise {m : Memory} (a : Nat) (b : Byte) (h : m.Pairwise fun x y => x.1 < y.1) :
    (m.putCell a b).Pairwise fun x y => x.1 < y.1 := by
  induction m with
  | nil => simp [Memory.putCell]
  | cons c m ih =>
    obtain ⟨hc, hm⟩ := List.pairwise_cons.1 h
    simp only [Memory.putCell]
    split
    · refine List.pairwise_cons.2 ⟨fun x hx => ?_, h⟩
      rcases List.mem_cons.1 hx with rfl | hx
      · assumption
      · exact lt_trans (by assumption) (hc x hx)
    · split
      · subst a
        exact List.pairwise_cons.2 ⟨hc, hm⟩
      · refine List.pairwise_cons.2 ⟨fun x hx => ?_, ih hm⟩
        rcases Memory.mem_putCell hx with hx | hx
        · omega
        · exact hc x hx

/-- A write keeps the canonical form. -/
theorem Memory.write_wf {m : Memory} (h : m.wf = true) (addr : Word64) (b : Byte) :
    (m.write addr b).wf = true := by
  rw [Memory.wf_iff] at h ⊢
  refine ⟨Memory.putCell_pairwise _ _ h.1, fun c hc => ?_⟩
  rcases Memory.mem_putCell hc with hc | hc
  · exact hc ▸ addr.isLt
  · exact h.2 c hc

/-- Withdrawing an address keeps the canonical form. -/
theorem Memory.erase_wf {m : Memory} (h : m.wf = true) (addr : Word64) : (m.erase addr).wf = true := by
  rw [Memory.wf_iff] at h ⊢
  exact ⟨h.1.filter _, fun c hc => h.2 c (List.mem_of_mem_filter hc)⟩

theorem Memory.reset_wf : State.reset.mem.wf = true := by decide

/-! ## Read after write -/

theorem Memory.lookup_cons (m : Memory) (k x : Nat) (v : Byte) :
    List.lookup x ((k, v) :: m) = if x = k then some v else m.lookup x := by
  rw [List.lookup_cons]
  by_cases h : x = k
  · simp [h]
  · rw [if_neg h, show (x == k) = false by simpa using h]

theorem Memory.lookup_putCell (m : Memory) (a x : Nat) (b : Byte) :
    (m.putCell a b).lookup x = if x = a then some b else m.lookup x := by
  induction m with
  | nil => exact Memory.lookup_cons [] a x b
  | cons c m ih =>
    obtain ⟨k, v⟩ := c
    simp only [Memory.putCell]
    split
    · rw [Memory.lookup_cons]
    · split
      · subst a
        rw [Memory.lookup_cons, Memory.lookup_cons]
        split <;> rfl
      · rw [Memory.lookup_cons, Memory.lookup_cons, ih]
        split
        · have : x ≠ a := by omega
          rw [if_neg this]
        · rfl

/-- A byte reads as it was written. -/
theorem Memory.read_write_same (m : Memory) (addr : Word64) (b : Byte) :
    (m.write addr b).read addr = some b := by
  simp [Memory.read, Memory.write, Memory.lookup_putCell]

/-- A write leaves every other address alone. -/
theorem Memory.read_write_other (m : Memory) {addr x : Word64} (hne : x ≠ addr) (b : Byte) :
    (m.write addr b).read x = m.read x := by
  have : x.toNat ≠ addr.toNat := fun e => hne (BitVec.eq_of_toNat_eq e)
  simp [Memory.read, Memory.write, Memory.lookup_putCell, this]

theorem Memory.lookup_filter_ne (m : Memory) (a x : Nat) :
    (m.filter fun c => c.1 != a).lookup x = if x = a then none else m.lookup x := by
  induction m with
  | nil => simp
  | cons c m ih =>
    obtain ⟨k, v⟩ := c
    by_cases hk : k = a
    · subst hk
      rw [List.filter_cons_of_neg (by simp), ih, Memory.lookup_cons]
      split <;> rfl
    · rw [List.filter_cons_of_pos (by simpa using hk), Memory.lookup_cons, Memory.lookup_cons, ih]
      split
      · have : x ≠ a := by omega
        rw [if_neg this]
      · rfl

/-- A withdrawn address is refused. -/
theorem Memory.read_erase_same (m : Memory) (addr : Word64) : (m.erase addr).read addr = none := by
  simp [Memory.read, Memory.erase, Memory.lookup_filter_ne]

/-- Withdrawing an address leaves every other address alone. -/
theorem Memory.read_erase_other (m : Memory) {addr x : Word64} (hne : x ≠ addr) :
    (m.erase addr).read x = m.read x := by
  have : x.toNat ≠ addr.toNat := fun e => hne (BitVec.eq_of_toNat_eq e)
  simp [Memory.read, Memory.erase, Memory.lookup_filter_ne, this]

/-! ## Runs of reads -/

@[simp] theorem readBytes_zero (f : Word64 → Option Byte) (a : Word64) : readBytes f a 0 = ⟨[], none⟩ := rfl

theorem readBytes_succ_none {f : Word64 → Option Byte} {a : Word64} (n : Nat) (h : f a = none) :
    readBytes f a (n + 1) = ⟨[], some a⟩ := by
  simp [readBytes, h]

theorem readBytes_succ_some {f : Word64 → Option Byte} {a : Word64} {b : Byte} (n : Nat) (h : f a = some b) :
    readBytes f a (n + 1) =
      ⟨(a, b) :: (readBytes f (a + 1) n).pairs, (readBytes f (a + 1) n).refused⟩ := by
  simp [readBytes, h]

/-- Reading `k + n` bytes is reading `k` and then, if none was refused, `n` more from where they end. -/
theorem readBytes_add (f : Word64 → Option Byte) (k n : Nat) : ∀ a : Word64,
    readBytes f a (k + n) =
      match (readBytes f a k).refused with
      | some x => ⟨(readBytes f a k).pairs, some x⟩
      | none =>
        ⟨(readBytes f a k).pairs ++ (readBytes f (a + BitVec.ofNat 64 k) n).pairs,
          (readBytes f (a + BitVec.ofNat 64 k) n).refused⟩ := by
  induction k with
  | zero => intro a; simp
  | succ k ih =>
    intro a
    rw [Nat.succ_add]
    cases h : f a with
    | none => simp [readBytes, h]
    | some b =>
      have e : a + 1 + BitVec.ofNat 64 k = a + BitVec.ofNat 64 (k + 1) := by
        rw [BitVec.add_assoc, Nat.add_comm k 1, BitVec.ofNat_add]; rfl
      simp only [readBytes, h, ih (a + 1), e]
      cases (readBytes f (a + 1) k).refused <;> simp

/-- Where no read is refused, as many bytes are read as were asked for. -/
theorem readBytes_length {f : Word64 → Option Byte} (n : Nat) :
    ∀ {a : Word64}, (readBytes f a n).refused = none →
    (readBytes f a n).pairs.length = n := by
  induction n with
  | zero => intro a _; rfl
  | succ n ih =>
    intro a h
    cases hr : f a with
    | none => simp [readBytes, hr] at h
    | some b => simp only [readBytes, hr] at h ⊢; simpa using ih h

/-- The reads of a message that is answered. -/
theorem readBytes_of_holds {f : Word64 → Option Byte} (msg : List Byte) :
    ∀ {a : Word64}, HoldsMessage f a msg →
    readBytes f a msg.length = ⟨messageReads a msg, none⟩ := by
  induction msg with
  | nil => intro a _; rfl
  | cons b bs ih =>
    intro a h
    have h0 : f a = some b := by simpa using h 0 b (by simp)
    have ht : HoldsMessage f (a + 1) bs := fun k x hk => by
      have := h (k + 1) x (by simpa using hk)
      rw [Nat.add_comm k 1, BitVec.ofNat_add, ← BitVec.add_assoc] at this
      exact this
    rw [List.length_cons, readBytes_succ_some _ h0, ih ht, messageReads]

@[simp] theorem messageReads_bytes (msg : List Byte) : ∀ a : Word64, (messageReads a msg).map Prod.snd = msg := by
  induction msg with
  | nil => intro a; rfl
  | cons b bs ih => intro a; simp [messageReads, ih]

/-- The reads of a message whose next byte is refused. -/
theorem readBytes_of_hole {f : Word64 → Option Byte} {a : Word64} {msg : List Byte} {n : Nat}
    (h : HoldsMessage f a msg) (hn : msg.length < n)
    (hh : f (a + BitVec.ofNat 64 msg.length) = none) :
    readBytes f a n = ⟨messageReads a msg, some (a + BitVec.ofNat 64 msg.length)⟩ := by
  obtain ⟨k, rfl⟩ : ∃ k, n = msg.length + (k + 1) := ⟨n - msg.length - 1, by omega⟩
  rw [readBytes_add, readBytes_of_holds msg h]
  simp [readBytes_succ_none _ hh]

theorem next_address (a : Word64) (k : Nat) : a + 1 + BitVec.ofNat 64 k = a + BitVec.ofNat 64 (k + 1) := by
  rw [BitVec.add_assoc, Nat.add_comm k 1, BitVec.ofNat_add]; rfl

/-- The refused address is the lowest one of the run that is refused. -/
theorem readBytes_refused {f : Word64 → Option Byte} :
    ∀ {n : Nat} {a x : Word64}, (readBytes f a n).refused = some x →
    ∃ k, k < n ∧ x = a + BitVec.ofNat 64 k ∧ f x = none ∧
      ∀ j, j < k → f (a + BitVec.ofNat 64 j) ≠ none
  | 0, a, x, h => by simp at h
  | n + 1, a, x, h => by
    cases hr : f a with
    | none =>
      rw [readBytes_succ_none _ hr] at h
      simp at h
      subst h
      exact ⟨0, by omega, by simp, hr, by simp⟩
    | some b =>
      rw [readBytes_succ_some _ hr] at h
      obtain ⟨k, hk, hx, hn, hj⟩ := readBytes_refused (n := n) h
      refine ⟨k + 1, by omega, by rw [hx, next_address], hn, fun j hj' => ?_⟩
      cases j with
      | zero => simp [hr]
      | succ j => rw [← next_address]; exact hj j (by omega)

/-- Where no read is refused, every address of the run has a byte. -/
theorem readBytes_all {f : Word64 → Option Byte} :
    ∀ {n : Nat} {a : Word64}, (readBytes f a n).refused = none →
    ∀ j, j < n → f (a + BitVec.ofNat 64 j) ≠ none
  | 0, a, h, j, hj => by omega
  | n + 1, a, h, j, hj => by
    cases hr : f a with
    | none => rw [readBytes_succ_none _ hr] at h; simp at h
    | some b =>
      rw [readBytes_succ_some _ hr] at h
      cases j with
      | zero => simp [hr]
      | succ j => rw [← next_address]; exact readBytes_all (n := n) h j (by omega)

/-- Answers that agree on the addresses of a run give the same reads. -/
theorem readBytes_ext {f f' : Word64 → Option Byte} : ∀ (n : Nat) (a : Word64),
    (∀ k, k < n → f (a + BitVec.ofNat 64 k) = f' (a + BitVec.ofNat 64 k)) →
    readBytes f a n = readBytes f' a n
  | 0, a, h => rfl
  | n + 1, a, h => by
    have h0 : f a = f' a := by simpa using h 0 (by omega)
    have ht : readBytes f (a + 1) n = readBytes f' (a + 1) n := readBytes_ext n (a + 1) fun k hk => by
      rw [next_address]
      exact h (k + 1) (by omega)
    rw [readBytes, readBytes, h0, ht]

/-! ## The byte a command in flight reads -/

/-- What is picked is one of the list. -/
theorem pick_mem {α : Type} : ∀ (x : α) (xs : List α) (n : Nat), pick x xs n ∈ x :: xs
  | _, [], _ => by simp [pick]
  | _, _ :: _, 0 => by simp [pick]
  | _, y :: ys, n + 1 => by
    rw [pick]
    exact List.mem_cons_of_mem _ (pick_mem y ys n)

/-- Every element can be picked. -/
theorem pick_surjective {α : Type} : ∀ (x : α) (xs : List α) (z : α), z ∈ x :: xs → ∃ n, pick x xs n = z
  | x, [], z, h => ⟨0, by simpa [pick, eq_comm] using h⟩
  | x, y :: ys, z, h => by
    rcases List.mem_cons.1 h with rfl | h
    · exact ⟨0, rfl⟩
    · obtain ⟨n, hn⟩ := pick_surjective y ys z h
      exact ⟨n + 1, hn⟩

/-- A byte read of a command in flight gets an answer the address gave since acceptance. -/
theorem State.sample_mem_answers (s : State) (addr : Word64) : s.sample addr ∈ s.answers addr :=
  pick_mem _ _ _

/-- Where no answer has changed since acceptance, it gets what memory holds. -/
theorem State.sample_of_held_nil {s : State} (h : s.held = []) (addr : Word64) :
    s.sample addr = s.mem.read addr := by
  simp [State.sample, State.answers, h, pick]

/-- What an address answers after a host write: the byte, then, in a message in flight, all it answered. -/
theorem State.mem_answers_hostWrite {s : State} {a x : Word64} {b : Byte} {r : Option Byte}
    (hx : s.inFlight x = true) :
    r ∈ (s.hostWrite a b).answers x ↔ (r = (s.hostWrite a b).mem.read x ∨ r ∈ s.answers x) := by
  by_cases e : x = a
  · subst e
    simp [State.answers, State.hostWrite, State.hold, hx]
  · have e' : ¬ a = x := fun h => e h.symm
    by_cases hf : s.inFlight a = true <;>
      simp [State.answers, State.hostWrite, State.hold, hf, e', Memory.read_write_other _ e]

/-- What an address answers after a withdrawal: as after a host write. -/
theorem State.mem_answers_hostUnmap {s : State} {a x : Word64} {r : Option Byte} (hx : s.inFlight x = true) :
    r ∈ (s.hostUnmap a).answers x ↔ (r = (s.hostUnmap a).mem.read x ∨ r ∈ s.answers x) := by
  by_cases e : x = a
  · subst e
    simp [State.answers, State.hostUnmap, State.hold, hx]
  · have e' : ¬ a = x := fun h => e h.symm
    by_cases hf : s.inFlight a = true <;>
      simp [State.answers, State.hostUnmap, State.hold, hf, e', Memory.read_erase_other _ e]

end Sys2Proof.Machine
end

