-- ==== Sys2Proof/Laws/State.lean ====
section
/-! SUPPORT. One lemma per field and update of State, so that no proof unfolds a record update. -/

namespace Sys2Proof.Machine

/-! ## logReads -/

@[simp] theorem State.logReads_phase (s : State) (pairs : List (Word64 × Byte)) :
    (s.logReads pairs).phase = s.phase := rfl
@[simp] theorem State.logReads_regs (s : State) (pairs : List (Word64 × Byte)) :
    (s.logReads pairs).regs = s.regs := rfl
@[simp] theorem State.logReads_request (s : State) (pairs : List (Word64 × Byte)) :
    (s.logReads pairs).request = s.request := rfl
@[simp] theorem State.logReads_response (s : State) (pairs : List (Word64 × Byte)) :
    (s.logReads pairs).response = s.response := rfl
@[simp] theorem State.logReads_mem (s : State) (pairs : List (Word64 × Byte)) :
    (s.logReads pairs).mem = s.mem := rfl
@[simp] theorem State.logReads_turns (s : State) (pairs : List (Word64 × Byte)) :
    (s.logReads pairs).turns = s.turns := rfl
@[simp] theorem State.logReads_received (s : State) (pairs : List (Word64 × Byte)) :
    (s.logReads pairs).received = s.received := rfl
@[simp] theorem State.logReads_reads (s : State) (pairs : List (Word64 × Byte)) :
    (s.logReads pairs).reads = s.reads ++ pairs := rfl
@[simp] theorem State.logReads_faulted (s : State) (pairs : List (Word64 × Byte)) :
    (s.logReads pairs).faulted = s.faulted := rfl
@[simp] theorem State.logReads_freeCount (s : State) (pairs : List (Word64 × Byte)) :
    (s.logReads pairs).freeCount = s.freeCount := rfl
@[simp] theorem State.logReads_held (s : State) (pairs : List (Word64 × Byte)) :
    (s.logReads pairs).held = s.held := rfl

/-! ## emit -/

@[simp] theorem State.emit_phase (s : State) (p : Response) (r : Regs) : (s.emit p r).phase = .idle := rfl
@[simp] theorem State.emit_regs (s : State) (p : Response) (r : Regs) : (s.emit p r).regs = r := rfl
@[simp] theorem State.emit_request (s : State) (p : Response) (r : Regs) :
    (s.emit p r).request = s.request := rfl
@[simp] theorem State.emit_response (s : State) (p : Response) (r : Regs) :
    (s.emit p r).response = some p := rfl
@[simp] theorem State.emit_mem (s : State) (p : Response) (r : Regs) : (s.emit p r).mem = s.mem := rfl
@[simp] theorem State.emit_turns (s : State) (p : Response) (r : Regs) : (s.emit p r).turns = s.turns := rfl
@[simp] theorem State.emit_received (s : State) (p : Response) (r : Regs) :
    (s.emit p r).received = s.received := rfl
@[simp] theorem State.emit_reads (s : State) (p : Response) (r : Regs) : (s.emit p r).reads = s.reads := rfl
@[simp] theorem State.emit_faulted (s : State) (p : Response) (r : Regs) :
    (s.emit p r).faulted = (s.faulted || p.err != 0) := rfl
@[simp] theorem State.emit_freeCount (s : State) (p : Response) (r : Regs) :
    (s.emit p r).freeCount = s.freeCount + 1 := rfl
@[simp] theorem State.emit_held (s : State) (p : Response) (r : Regs) : (s.emit p r).held = s.held := rfl

/-! ## respond -/

@[simp] theorem State.respond_phase (s : State) (i : Instr) (p : Response) :
    (s.respond i p).phase = .idle := rfl
@[simp] theorem State.respond_regs (s : State) (i : Instr) (p : Response) :
    (s.respond i p).regs = dropRegs i (Config.unspecified s.freeCount) s.regs := rfl
@[simp] theorem State.respond_request (s : State) (i : Instr) (p : Response) :
    (s.respond i p).request = s.request := rfl
@[simp] theorem State.respond_response (s : State) (i : Instr) (p : Response) :
    (s.respond i p).response = some p := rfl
@[simp] theorem State.respond_mem (s : State) (i : Instr) (p : Response) : (s.respond i p).mem = s.mem := rfl
@[simp] theorem State.respond_turns (s : State) (i : Instr) (p : Response) :
    (s.respond i p).turns = s.turns := rfl
@[simp] theorem State.respond_received (s : State) (i : Instr) (p : Response) :
    (s.respond i p).received = s.received := rfl
@[simp] theorem State.respond_reads (s : State) (i : Instr) (p : Response) :
    (s.respond i p).reads = s.reads := rfl
@[simp] theorem State.respond_faulted (s : State) (i : Instr) (p : Response) :
    (s.respond i p).faulted = (s.faulted || p.err != 0) := rfl
@[simp] theorem State.respond_freeCount (s : State) (i : Instr) (p : Response) :
    (s.respond i p).freeCount = s.freeCount + 1 := rfl
@[simp] theorem State.respond_held (s : State) (i : Instr) (p : Response) :
    (s.respond i p).held = s.held := rfl

/-! ## raise -/

@[simp] theorem State.raise_phase (s : State) (i : Instr) (f : HwFault) (x : Word64) :
    (s.raise i f x).phase = .idle := rfl
@[simp] theorem State.raise_regs (s : State) (i : Instr) (f : HwFault) (x : Word64) :
    (s.raise i f x).regs = dropRegs i (Config.unspecified s.freeCount) s.regs := rfl
@[simp] theorem State.raise_request (s : State) (i : Instr) (f : HwFault) (x : Word64) :
    (s.raise i f x).request = s.request := rfl
@[simp] theorem State.raise_response (s : State) (i : Instr) (f : HwFault) (x : Word64) :
    (s.raise i f x).response = some (.fault f x) := rfl
@[simp] theorem State.raise_mem (s : State) (i : Instr) (f : HwFault) (x : Word64) :
    (s.raise i f x).mem = s.mem := rfl
@[simp] theorem State.raise_turns (s : State) (i : Instr) (f : HwFault) (x : Word64) :
    (s.raise i f x).turns = s.turns := rfl
@[simp] theorem State.raise_received (s : State) (i : Instr) (f : HwFault) (x : Word64) :
    (s.raise i f x).received = s.received := rfl
@[simp] theorem State.raise_reads (s : State) (i : Instr) (f : HwFault) (x : Word64) :
    (s.raise i f x).reads = s.reads := rfl
@[simp] theorem State.raise_faulted (s : State) (i : Instr) (f : HwFault) (x : Word64) : (s.raise i f x).faulted = true := by cases f <;> simp [State.raise, State.emit, Response.fault, HwFault.code]
@[simp] theorem State.raise_freeCount (s : State) (i : Instr) (f : HwFault) (x : Word64) :
    (s.raise i f x).freeCount = s.freeCount + 1 := rfl
@[simp] theorem State.raise_held (s : State) (i : Instr) (f : HwFault) (x : Word64) :
    (s.raise i f x).held = s.held := rfl

/-! ## raiseIllegal -/

@[simp] theorem State.raiseIllegal_phase (s : State) (c : Byte) : (s.raiseIllegal c).phase = .idle := rfl
@[simp] theorem State.raiseIllegal_regs (s : State) (c : Byte) :
    (s.raiseIllegal c).regs = { s.regs with
      captured := (Config.unspecified s.freeCount).captured
      pos := (Config.unspecified s.freeCount).pos } := rfl
@[simp] theorem State.raiseIllegal_request (s : State) (c : Byte) :
    (s.raiseIllegal c).request = s.request := rfl
@[simp] theorem State.raiseIllegal_response (s : State) (c : Byte) :
    (s.raiseIllegal c).response = some (.fault .illegalCommand (c.setWidth 64)) := rfl
@[simp] theorem State.raiseIllegal_mem (s : State) (c : Byte) : (s.raiseIllegal c).mem = s.mem := rfl
@[simp] theorem State.raiseIllegal_turns (s : State) (c : Byte) : (s.raiseIllegal c).turns = s.turns := rfl
@[simp] theorem State.raiseIllegal_received (s : State) (c : Byte) :
    (s.raiseIllegal c).received = s.received := rfl
@[simp] theorem State.raiseIllegal_reads (s : State) (c : Byte) : (s.raiseIllegal c).reads = s.reads := rfl
@[simp] theorem State.raiseIllegal_faulted (s : State) (c : Byte) : (s.raiseIllegal c).faulted = true := by simp [State.raiseIllegal, State.emit, Response.fault, HwFault.code]
@[simp] theorem State.raiseIllegal_freeCount (s : State) (c : Byte) :
    (s.raiseIllegal c).freeCount = s.freeCount + 1 := rfl
@[simp] theorem State.raiseIllegal_held (s : State) (c : Byte) : (s.raiseIllegal c).held = s.held := rfl

/-! ## capture -/

@[simp] theorem State.capture_phase (s : State) (q : Request) : (s.capture q).phase = s.phase := rfl
@[simp] theorem State.capture_regs (s : State) (q : Request) :
    (s.capture q).regs = { s.regs with captured := q } := rfl
@[simp] theorem State.capture_request (s : State) (q : Request) : (s.capture q).request = none := rfl
@[simp] theorem State.capture_response (s : State) (q : Request) : (s.capture q).response = s.response := rfl
@[simp] theorem State.capture_mem (s : State) (q : Request) : (s.capture q).mem = s.mem := rfl
@[simp] theorem State.capture_turns (s : State) (q : Request) : (s.capture q).turns = s.turns := rfl
@[simp] theorem State.capture_received (s : State) (q : Request) : (s.capture q).received = s.received := rfl
@[simp] theorem State.capture_reads (s : State) (q : Request) : (s.capture q).reads = s.reads := rfl
@[simp] theorem State.capture_faulted (s : State) (q : Request) : (s.capture q).faulted = s.faulted := rfl
@[simp] theorem State.capture_freeCount (s : State) (q : Request) :
    (s.capture q).freeCount = s.freeCount := rfl
@[simp] theorem State.capture_held (s : State) (q : Request) : (s.capture q).held = [] := rfl

/-! ## applyReset -/

@[simp] theorem State.applyReset_phase (s : State) : (s.applyReset).phase = .idle := rfl
@[simp] theorem State.applyReset_regs (s : State) :
    (s.applyReset).regs = Config.unspecified s.freeCount := rfl
@[simp] theorem State.applyReset_request (s : State) : (s.applyReset).request = none := rfl
@[simp] theorem State.applyReset_response (s : State) : (s.applyReset).response = none := rfl
@[simp] theorem State.applyReset_mem (s : State) : (s.applyReset).mem = s.mem := rfl
@[simp] theorem State.applyReset_turns (s : State) : (s.applyReset).turns = s.turns := rfl
@[simp] theorem State.applyReset_received (s : State) : (s.applyReset).received = s.received := rfl
@[simp] theorem State.applyReset_reads (s : State) : (s.applyReset).reads = s.reads := rfl
@[simp] theorem State.applyReset_faulted (s : State) : (s.applyReset).faulted = s.faulted := rfl
@[simp] theorem State.applyReset_freeCount (s : State) : (s.applyReset).freeCount = s.freeCount + 1 := rfl
@[simp] theorem State.applyReset_held (s : State) : (s.applyReset).held = s.held := rfl

/-! ## advance -/

@[simp] theorem State.advance_phase (s : State) (i : Instr) (r : Regs) :
    (s.advance i r).phase = nextPhase i r.captured.len.toNat r.pos.toNat s.phase := rfl
@[simp] theorem State.advance_regs (s : State) (i : Instr) (r : Regs) : (s.advance i r).regs = r := rfl
@[simp] theorem State.advance_request (s : State) (i : Instr) (r : Regs) :
    (s.advance i r).request = s.request := rfl
@[simp] theorem State.advance_response (s : State) (i : Instr) (r : Regs) :
    (s.advance i r).response = s.response := rfl
@[simp] theorem State.advance_mem (s : State) (i : Instr) (r : Regs) : (s.advance i r).mem = s.mem := rfl
@[simp] theorem State.advance_turns (s : State) (i : Instr) (r : Regs) :
    (s.advance i r).turns = s.turns := rfl
@[simp] theorem State.advance_received (s : State) (i : Instr) (r : Regs) :
    (s.advance i r).received = s.received := rfl
@[simp] theorem State.advance_reads (s : State) (i : Instr) (r : Regs) :
    (s.advance i r).reads = s.reads := rfl
@[simp] theorem State.advance_faulted (s : State) (i : Instr) (r : Regs) :
    (s.advance i r).faulted = s.faulted := rfl
@[simp] theorem State.advance_freeCount (s : State) (i : Instr) (r : Regs) :
    (s.advance i r).freeCount = s.freeCount := rfl
@[simp] theorem State.advance_held (s : State) (i : Instr) (r : Regs) : (s.advance i r).held = s.held := rfl

/-! ## hostWrite and hostUnmap -/

@[simp] theorem State.hold_mem (s : State) (a : Word64) : (s.hold a).mem = s.mem := by
  unfold State.hold; split <;> rfl
@[simp] theorem State.hold_phase (s : State) (a : Word64) : (s.hold a).phase = s.phase := by
  unfold State.hold; split <;> rfl
@[simp] theorem State.hold_regs (s : State) (a : Word64) : (s.hold a).regs = s.regs := by
  unfold State.hold; split <;> rfl
@[simp] theorem State.hold_request (s : State) (a : Word64) : (s.hold a).request = s.request := by
  unfold State.hold; split <;> rfl
@[simp] theorem State.hold_response (s : State) (a : Word64) : (s.hold a).response = s.response := by
  unfold State.hold; split <;> rfl
@[simp] theorem State.hold_turns (s : State) (a : Word64) : (s.hold a).turns = s.turns := by
  unfold State.hold; split <;> rfl
@[simp] theorem State.hold_received (s : State) (a : Word64) : (s.hold a).received = s.received := by
  unfold State.hold; split <;> rfl
@[simp] theorem State.hold_reads (s : State) (a : Word64) : (s.hold a).reads = s.reads := by
  unfold State.hold; split <;> rfl
@[simp] theorem State.hold_faulted (s : State) (a : Word64) : (s.hold a).faulted = s.faulted := by
  unfold State.hold; split <;> rfl
@[simp] theorem State.hold_freeCount (s : State) (a : Word64) : (s.hold a).freeCount = s.freeCount := by
  unfold State.hold; split <;> rfl
theorem State.hold_held (s : State) (a : Word64) :
    (s.hold a).held = if s.inFlight a then (a, s.mem.read a) :: s.held else s.held := by
  unfold State.hold; split <;> rfl
@[simp] theorem State.hostWrite_mem (s : State) (a : Word64) (b : Byte) : (s.hostWrite a b).mem = s.mem.write a b := rfl
@[simp] theorem State.hostWrite_held (s : State) (a : Word64) (b : Byte) : (s.hostWrite a b).held = (s.hold a).held := rfl
@[simp] theorem State.hostWrite_phase (s : State) (a : Word64) (b : Byte) : (s.hostWrite a b).phase = s.phase :=
  State.hold_phase s a
@[simp] theorem State.hostWrite_regs (s : State) (a : Word64) (b : Byte) : (s.hostWrite a b).regs = s.regs :=
  State.hold_regs s a
@[simp] theorem State.hostWrite_request (s : State) (a : Word64) (b : Byte) : (s.hostWrite a b).request = s.request :=
  State.hold_request s a
@[simp] theorem State.hostWrite_response (s : State) (a : Word64) (b : Byte) : (s.hostWrite a b).response = s.response :=
  State.hold_response s a
@[simp] theorem State.hostWrite_turns (s : State) (a : Word64) (b : Byte) : (s.hostWrite a b).turns = s.turns :=
  State.hold_turns s a
@[simp] theorem State.hostWrite_received (s : State) (a : Word64) (b : Byte) : (s.hostWrite a b).received = s.received :=
  State.hold_received s a
@[simp] theorem State.hostWrite_reads (s : State) (a : Word64) (b : Byte) : (s.hostWrite a b).reads = s.reads :=
  State.hold_reads s a
@[simp] theorem State.hostWrite_faulted (s : State) (a : Word64) (b : Byte) : (s.hostWrite a b).faulted = s.faulted :=
  State.hold_faulted s a
@[simp] theorem State.hostWrite_freeCount (s : State) (a : Word64) (b : Byte) : (s.hostWrite a b).freeCount = s.freeCount :=
  State.hold_freeCount s a
@[simp] theorem State.hostUnmap_mem (s : State) (a : Word64) : (s.hostUnmap a).mem = s.mem.erase a := rfl
@[simp] theorem State.hostUnmap_held (s : State) (a : Word64) : (s.hostUnmap a).held = (s.hold a).held := rfl
@[simp] theorem State.hostUnmap_phase (s : State) (a : Word64) : (s.hostUnmap a).phase = s.phase :=
  State.hold_phase s a
@[simp] theorem State.hostUnmap_regs (s : State) (a : Word64) : (s.hostUnmap a).regs = s.regs :=
  State.hold_regs s a
@[simp] theorem State.hostUnmap_request (s : State) (a : Word64) : (s.hostUnmap a).request = s.request :=
  State.hold_request s a
@[simp] theorem State.hostUnmap_response (s : State) (a : Word64) : (s.hostUnmap a).response = s.response :=
  State.hold_response s a
@[simp] theorem State.hostUnmap_turns (s : State) (a : Word64) : (s.hostUnmap a).turns = s.turns :=
  State.hold_turns s a
@[simp] theorem State.hostUnmap_received (s : State) (a : Word64) : (s.hostUnmap a).received = s.received :=
  State.hold_received s a
@[simp] theorem State.hostUnmap_reads (s : State) (a : Word64) : (s.hostUnmap a).reads = s.reads :=
  State.hold_reads s a
@[simp] theorem State.hostUnmap_faulted (s : State) (a : Word64) : (s.hostUnmap a).faulted = s.faulted :=
  State.hold_faulted s a
@[simp] theorem State.hostUnmap_freeCount (s : State) (a : Word64) : (s.hostUnmap a).freeCount = s.freeCount :=
  State.hold_freeCount s a

/-! ## dropRegs, by command -/

section
variable (free r : Regs)

@[simp] theorem dropRegs_captured (i : Instr) : (dropRegs i free r).captured = free.captured := by
  cases i <;> rfl
@[simp] theorem dropRegs_shake32_s64 : (dropRegs .shake32 free r).s64 = r.s64 := rfl
@[simp] theorem dropRegs_shake32_h : (dropRegs .shake32 free r).h = r.h := rfl
@[simp] theorem dropRegs_shake64_s32 (d : Bool) : (dropRegs (.shake64 d) free r).s32 = r.s32 := rfl
@[simp] theorem dropRegs_shake64_h (d : Bool) : (dropRegs (.shake64 d) free r).h = r.h := rfl
@[simp] theorem dropRegs_stir_s32 : (dropRegs .stir free r).s32 = r.s32 := rfl
@[simp] theorem dropRegs_stir_s64 : (dropRegs .stir free r).s64 = r.s64 := rfl

/-- A primitive command keeps every register but the captured request. -/
theorem dropRegs_primitive (i : Instr) (h : i.format ≠ .h) :
    dropRegs i free r = { r with captured := free.captured } := by
  cases i <;> first | rfl | exact absurd rfl h

end

end Sys2Proof.Machine
end

