-- ==== Sys2Proof/Laws/Ops.lean ====
section
/-! SUPPORT. One lemma per shared operation that says what it can do; proofs cite these and unfold nothing. -/

namespace Sys2Proof.Machine

/-! ## A command as one atomic step -/

/-- A format-H command ends in one of three ways: its range wraps, a read is refused, or every byte is read. -/
theorem hashCommand_cases (i : Instr) (s : State) (answer : List Byte → Response) :
    (addrWraps s.regs.captured = true ∧
      hashCommand i s answer = .next (s.raise i .addrWrap s.regs.captured.addr)) ∨
    (addrWraps s.regs.captured = false ∧ ∃ x,
      (readBytes s.mem.read s.regs.captured.addr s.regs.captured.len.toNat).refused = some x ∧
      hashCommand i s answer = .next ((s.logReads
        (readBytes s.mem.read s.regs.captured.addr s.regs.captured.len.toNat).pairs).raise i .msgAccessFault x)) ∨
    (addrWraps s.regs.captured = false ∧
      (readBytes s.mem.read s.regs.captured.addr s.regs.captured.len.toNat).refused = none ∧
      hashCommand i s answer = .next ((s.logReads
        (readBytes s.mem.read s.regs.captured.addr s.regs.captured.len.toNat).pairs).respond i
          (answer (readBytes s.mem.read s.regs.captured.addr s.regs.captured.len.toNat).bytes))) := by
  cases hw : addrWraps s.regs.captured with
  | true => exact .inl ⟨rfl, by simp [hashCommand, hw]⟩
  | false =>
    refine .inr ?_
    cases hr : (readBytes s.mem.read s.regs.captured.addr s.regs.captured.len.toNat).refused with
    | some x => exact .inl ⟨rfl, x, rfl, by simp [hashCommand, hw, hr]⟩
    | none => exact .inr ⟨rfl, rfl, by simp [hashCommand, hw, hr]⟩

/-- Whatever a format-H command answers, it is the state with some reads made and one response emitted. -/
theorem hashCommand_emits {i : Instr} {s t : State} {answer : List Byte → Response}
    (h : hashCommand i s answer = .next t) :
    ∃ pairs p r, t = (s.logReads pairs).emit p r := by
  rcases hashCommand_cases i s answer with ⟨-, e⟩ | ⟨-, x, -, e⟩ | ⟨-, -, e⟩ <;> rw [e] at h <;>
    injection h with h <;> subst h
  · exact ⟨[], _, _, by rw [State.raise]; simp [State.logReads]; rfl⟩
  · exact ⟨_, _, _, rfl⟩
  · exact ⟨_, _, _, rfl⟩

theorem exec_shake32 (s : State) : exec .shake32 s = hashCommand .shake32 s fun msg =>
    .good (zext64 (shake32Digest Config.build (seed32 s.regs.captured) s.regs.captured.len msg)) := rfl

theorem exec_shake64 (dual : Bool) (s : State) : exec (.shake64 dual) s = hashCommand (.shake64 dual) s
    fun msg => answer64 Config.build dual
      (shake64Lanes Config.build s.regs.captured.seed s.regs.captured.len msg) := rfl

theorem exec_stir (s : State) : exec .stir s = hashCommand .stir s fun msg =>
    .good (zext64 (stirHash (seed32 s.regs.captured) msg)) := rfl

/-- Whatever a command answers, it is the state with some reads made and one response emitted. -/
theorem exec_emits {i : Instr} {s t : State} (h : exec i s = .next t) :
    ∃ pairs p r, t = (s.logReads pairs).emit p r := by
  have prim : ∀ {j : Instr} {p : Response}, Host.Outcome.next (s.respond j p) = (.next t : Result) →
      ∃ pairs p r, t = (s.logReads pairs).emit p r := fun {j p} e => by
    injection e with e
    subst e
    exact ⟨[], p, _, by rw [State.respond]; simp [State.logReads]; rfl⟩
  cases i with
  | shake32 => exact hashCommand_emits (exec_shake32 s ▸ h)
  | shake64 dual => exact hashCommand_emits (exec_shake64 dual s ▸ h)
  | stir => exact hashCommand_emits (exec_stir s ▸ h)
  | rotl32 => exact prim h
  | combine32 => exact prim h
  | mix32 => exact prim h
  | scramble32 => exact prim h
  | rotl64 => exact prim h
  | mix64 => exact prim h
  | scramble64 => exact prim h

/-! ## The phase machine -/

/-- A reading phase either meets a refused byte or reads all its bytes and advances. -/
theorem readPhase_cases (s : State) (i : Instr) (n : Nat) (write : List Byte → Regs) :
    (∃ x, (readBytes s.sample (s.regs.captured.addr + s.regs.pos) n).refused = some x ∧
      s.readPhase i n write =
        (s.logReads (readBytes s.sample (s.regs.captured.addr + s.regs.pos) n).pairs).raise i .msgAccessFault x) ∨
    ((readBytes s.sample (s.regs.captured.addr + s.regs.pos) n).refused = none ∧
      s.readPhase i n write =
        (s.logReads (readBytes s.sample (s.regs.captured.addr + s.regs.pos) n).pairs).advance i
          (write (readBytes s.sample (s.regs.captured.addr + s.regs.pos) n).bytes)) := by
  cases hr : (readBytes s.sample (s.regs.captured.addr + s.regs.pos) n).refused with
  | some x => exact .inl ⟨x, rfl, by simp [State.readPhase, hr]⟩
  | none => exact .inr ⟨rfl, by simp [State.readPhase, hr]⟩

/-- Acceptance ends at once in a fault response, or enters the command's first phase. -/
theorem accept_cases (s : State) (q : Request) :
    ((∃ e, decode q.cmd = .error e) ∧ s.accept q = (s.capture q).raiseIllegal q.cmd) ∨
    (∃ i, decode q.cmd = .ok i ∧ i.format = .h ∧ addrWraps q = true ∧
      s.accept q = (s.capture q).raise i .addrWrap q.addr) ∨
    (∃ i, decode q.cmd = .ok i ∧ (i.format = .h → addrWraps q = false) ∧
      s.accept q = { s.capture q with phase := firstPhase i }) := by
  cases hd : decode q.cmd with
  | error e => exact .inl ⟨⟨e, rfl⟩, by simp [State.accept, hd]⟩
  | ok i =>
    refine .inr ?_
    by_cases hf : i.format = .h
    · cases hw : addrWraps q with
      | true => exact .inl ⟨i, rfl, hf, rfl, by simp [State.accept, hd, hf, hw]⟩
      | false => exact .inr ⟨i, rfl, fun _ => rfl, by simp [State.accept, hd, hw]⟩
    · exact .inr ⟨i, rfl, fun h => absurd h hf, by simp [State.accept, hd, hf]⟩

/-! ## Who moves -/

/-- The hasher's move: one phase if busy; a command or an acceptance if idle with a request and no response
waiting; else nothing. -/
theorem hasherMove_cases (fine : Bool) (s : State) :
    (s.phase ≠ .idle ∧ hasherMove fine s = phaseStep Config.build s) ∨
    (s.phase = .idle ∧ s.response = none ∧ ∃ q, s.request = some q ∧
      hasherMove fine s = if fine then .next (s.accept q) else runCommand s q) ∨
    (s.phase = .idle ∧ (s.response ≠ none ∨ s.request = none) ∧ hasherMove fine s = .next s) := by
  by_cases hp : s.phase = .idle
  · refine .inr ?_
    cases hr : s.response with
    | some p => exact .inr ⟨hp, .inl (by simp), by simp [hasherMove, hp, hr]⟩
    | none =>
      cases hq : s.request with
      | some q => exact .inl ⟨hp, rfl, q, rfl, by simp [hasherMove, hp, hr, hq]⟩
      | none => exact .inr ⟨hp, .inr rfl, by simp [hasherMove, hp, hr, hq]⟩
  · exact .inl ⟨hp, by simp [hasherMove, hp]⟩

/-- An idle hasher with a request, no response waiting and no move listed runs the whole command. -/
theorem step_of_ready {s : State} {q : Request} (h : Ready s q) : step s = runCommand s q := by
  simp [step, h.turns, hasherMove, h.idle, h.response, h.request]

/-- The step's move is the hasher's, on the state with or without the head of the list, or a host move. -/
theorem step_cases {s t : State} (h : step s = .next t) :
    (∃ fine rest, (rest = s.turns ∨ ∃ x, s.turns = x :: rest) ∧
      hasherMove fine { s with turns := rest } = .next t) ∨
    (∃ q rest, s.turns = .present q :: rest ∧ s.request = none ∧
      t = { s with turns := rest, request := some q }) ∨
    (∃ p rest, s.turns = .take :: rest ∧ s.response = some p ∧
      t = { s with turns := rest, response := none, received := s.received ++ [p] }) ∨
    (∃ rest, s.turns = .reset :: rest ∧ t = State.applyReset { s with turns := rest }) ∨
    (∃ a b rest, s.turns = .write a b :: rest ∧ t = State.hostWrite { s with turns := rest } a b) ∨
    (∃ a rest, s.turns = .unmap a :: rest ∧ t = State.hostUnmap { s with turns := rest } a) := by
  cases ht : s.turns with
  | nil =>
    refine .inl ⟨false, [], .inl rfl, ?_⟩
    have e : s = { s with turns := [] } := by cases s; simp_all
    rw [step, ht] at h
    rwa [← e]
  | cons x rest =>
    rw [step, ht] at h
    have same : ∀ {fine}, hasherMove fine s = .next t →
        ∃ fine rest', (rest' = x :: rest ∨ ∃ y, x :: rest = y :: rest') ∧
          hasherMove fine { s with turns := rest' } = .next t := fun {fine} e =>
      ⟨fine, x :: rest, .inl rfl, by rw [← e, ← ht]⟩
    cases x with
    | hasher => exact .inl ⟨false, rest, .inr ⟨_, rfl⟩, h⟩
    | phase => exact .inl ⟨true, rest, .inr ⟨_, rfl⟩, h⟩
    | present q =>
      rcases Option.eq_none_or_eq_some s.request with hq | ⟨q', hq⟩
      · simp only [turnMove, hq] at h
        injection h with h
        exact .inr (.inl ⟨q, rest, rfl, hq, h.symm⟩)
      · simp only [turnMove, hq] at h
        exact .inl (same h)
    | take =>
      rcases Option.eq_none_or_eq_some s.response with hp | ⟨p, hp⟩
      · simp only [turnMove, hp] at h
        exact .inl (same h)
      · simp only [turnMove, hp] at h
        injection h with h
        exact .inr (.inr (.inl ⟨p, rest, rfl, hp, h.symm⟩))
    | reset =>
      simp only [turnMove] at h
      injection h with h
      exact .inr (.inr (.inr (.inl ⟨rest, rfl, h.symm⟩)))
    | write a b =>
      simp only [turnMove] at h
      injection h with h
      exact .inr (.inr (.inr (.inr (.inl ⟨a, b, rest, rfl, h.symm⟩))))
    | unmap a =>
      simp only [turnMove] at h
      injection h with h
      exact .inr (.inr (.inr (.inr (.inr ⟨a, rest, rfl, h.symm⟩))))

end Sys2Proof.Machine
end

