-- ==== Sys2Proof/Laws/PerInstr.lean ====
section
/-! SUPPORT. A statement about each instruction as syntax: the fields of its command byte pass every check of
30_encoding.md R66, and a row of the opcode map (R62) with its mnemonic and format selects the byte. -/

namespace Sys2Proof.Laws.LegalEncoding

/-- The command byte is well formed and its own row of the opcode map selects it. -/
def Statement (i : Instr) : Prop :=
  (cmdFields (encode i)).wf = true ∧
    ∃ r ∈ opRows, r.selects (encode i) = true ∧ r.mnemonic = i.mnemonic ∧ r.format = i.format

theorem shake32 : Statement .shake32 := by refine ⟨by decide, ⟨"SHAKE32", 0x01, 0xFF, .h⟩, ?_⟩; decide
theorem shake64 (dual : Bool) : Statement (.shake64 dual) := by
  cases dual <;> refine ⟨by decide, ⟨"SHAKE64", 0x02, 0xEF, .h⟩, ?_⟩ <;> decide
theorem stir : Statement .stir := by refine ⟨by decide, ⟨"STIR", 0x03, 0xFF, .h⟩, ?_⟩; decide
theorem rotl32 : Statement .rotl32 := by refine ⟨by decide, ⟨"ROTL32", 0x04, 0xFF, .pr⟩, ?_⟩; decide
theorem combine32 : Statement .combine32 := by
  refine ⟨by decide, ⟨"COMBINE32", 0x05, 0xFF, .p2⟩, ?_⟩; decide
theorem mix32 : Statement .mix32 := by refine ⟨by decide, ⟨"MIX32", 0x06, 0xFF, .p2⟩, ?_⟩; decide
theorem scramble32 : Statement .scramble32 := by
  refine ⟨by decide, ⟨"SCRAMBLE32", 0x07, 0xFF, .p1⟩, ?_⟩; decide
theorem rotl64 : Statement .rotl64 := by refine ⟨by decide, ⟨"ROTL64", 0x08, 0xFF, .pr⟩, ?_⟩; decide
theorem mix64 : Statement .mix64 := by refine ⟨by decide, ⟨"MIX64", 0x0A, 0xFF, .p2⟩, ?_⟩; decide
theorem scramble64 : Statement .scramble64 := by
  refine ⟨by decide, ⟨"SCRAMBLE64", 0x0B, 0xFF, .p1⟩, ?_⟩; decide

end Sys2Proof.Laws.LegalEncoding
end

