-- ==== Sys2Proof/Tests/Slice0.lean ====
section
/-! SUPPORT. Small tests. Expected values are the numbers of 95_test_vectors.md (its sections are named below)
or are read off the rules; none is copied from the model's own answers. The witnesses at the end meet the
hypotheses of the statements in Certificates/Slice0/Obligations.lean. -/

namespace Sys2Proof.Tests

open Sys2Proof.Machine

/-! ## TESTCFG (95_test_vectors.md section 1) -/

def testcfg (guard : Bool) : Config :=
  { guardEn := guard
    c32 := #v[0x01234567, 0x89ABCDEF, 0xFEDCBA98, 0x76543210]
    m1 := 0x87654321
    m2 := 0x12345679
    mix32 := mix32Default 0x0F1E2D3D 11 0x5A5A5A5B 7 0xA5A5A5A5
    sr1 := 16
    sm1 := 0x13579BDF
    sr2 := 13
    sm2 := 0x2468ACE1
    sr3 := 16
    k64 := Vector.ofFn fun i : Fin 12 => BitVec.ofNat 64 ((i.val + 1) * 0x1111111111111111)
    round64 := round64Default 1 5
    p1 := 0x0123456789ABCDEF
    p2 := 0xFEDCBA9876543211
    cond64Src := [1, 3, 4, 5, 6]
    q1 := 0x1122334455667789 }

/-! ## Helpers -/

/-- `M(n)`: the message whose byte at offset `k` is `k + 1`. -/
def msgM (n : Nat) : List Byte := (List.range n).map fun k => BitVec.ofNat 8 (k + 1)

/-- Memory that holds a message at an address and nothing else. -/
def memAt (addr : Nat) (msg : List Byte) : Memory := msg.zipIdx.map fun x => (addr + x.2, x.1)

/-- A request of a hash command; the fields it does not read hold noise (R63). -/
def hashReq (cmd : Byte) (addr len seed : Word64) : Request := ⟨cmd, addr, len, seed, 7, 8, 9⟩

/-- A request of a primitive command; the fields it does not read hold noise (R63). -/
def primReq (cmd : Byte) (a b g : Word64) : Request := ⟨cmd, 1, 2, 3, a, b, g⟩

/-- The machine after acceptance of a request. -/
def running (mem : Memory) (q : Request) : State :=
  { State.reset with mem := mem, regs := { Regs.zero with captured := q } }

/-- The machine with a request waiting. -/
def waiting (mem : Memory) (q : Request) : State := { State.reset with mem := mem, request := some q }

/-- The response of an outcome. -/
def responseOf : Result → Option Response
  | .next t => t.response
  | .fault _ => none
  | .refused _ => none

/-- The addresses an outcome has read. -/
def addressesOf : Result → List Word64
  | .next t => t.reads.map Prod.fst
  | .fault _ => []
  | .refused _ => []

/-- The lane file and the phase of an outcome. -/
def lanes32Of : Result → Option (List Word32 × Phase)
  | .next t => some (t.regs.s32.toList, t.phase)
  | .fault _ => none
  | .refused _ => none

/-- What a decoding is, as data that can be compared. -/
def decoded (c : Byte) : Instr ⊕ Reserved :=
  match decode c with
  | .ok i => .inl i
  | .error e => .inr e

/-! ## Well-formedness: each check refuses an ill-formed term -/

theorem test_wf_accepts_shake64_dual : (cmdFields 0x12).wf = true := by decide
theorem test_wf_refuses_unknown_op : ({ op := 9, dual := false, rsv := 0 } : CmdFields).opKnown = false := by decide
theorem test_wf_refuses_nonzero_rsv : ({ op := 1, dual := false, rsv := 4 } : CmdFields).rsvZero = false := by decide
theorem test_wf_refuses_dual_elsewhere :
    ({ op := 1, dual := true, rsv := 0 } : CmdFields).dualAllowed = false := by decide
theorem test_wf_accepts_testcfg : (testcfg true).wf = true := by decide
theorem test_wf_refuses_even_multiplier : ({ testcfg true with m2 := 2 } : Config).oddMultipliers = false := by decide
theorem test_wf_refuses_shift_zero : ({ testcfg true with sr2 := 0 } : Config).shiftsInRange = false := by decide
theorem test_wf_refuses_source_two :
    ({ testcfg true with cond64Src := [1, 2, 4, 5, 6] } : Config).sourcesAllowed = false := by decide
theorem test_wf_refuses_repeated_source :
    ({ testcfg true with cond64Src := [1, 3, 4, 5, 5] } : Config).sourcesAllowed = false := by decide

/-! ## Decoding: bytes written out field by field, RSV DUAL OP (30_encoding.md R60, R62) -/

theorem test_decode_shake32 : decoded 0b000_0_0001 = .inl .shake32 := by decide
theorem test_decode_shake64 : decoded 0b000_0_0010 = .inl (.shake64 false) := by decide
theorem test_decode_shake64_dual : decoded 0b000_1_0010 = .inl (.shake64 true) := by decide
theorem test_decode_stir : decoded 0b000_0_0011 = .inl .stir := by decide
theorem test_decode_rotl32 : decoded 0b000_0_0100 = .inl .rotl32 := by decide
theorem test_decode_combine32 : decoded 0b000_0_0101 = .inl .combine32 := by decide
theorem test_decode_mix32 : decoded 0b000_0_0110 = .inl .mix32 := by decide
theorem test_decode_scramble32 : decoded 0b000_0_0111 = .inl .scramble32 := by decide
theorem test_decode_rotl64 : decoded 0b000_0_1000 = .inl .rotl64 := by decide
theorem test_decode_mix64 : decoded 0b000_0_1010 = .inl .mix64 := by decide
theorem test_decode_scramble64 : decoded 0b000_0_1011 = .inl .scramble64 := by decide
theorem test_decode_rsv_first : decoded 0b001_1_0000 = .inr .rsvNotZero := by decide
theorem test_decode_no_row : decoded 0b000_0_1001 = .inr .noSuchOperation := by decide
theorem test_decode_no_row_with_dual : decoded 0b000_1_1111 = .inr .noSuchOperation := by decide
theorem test_decode_dual_on_stir : decoded 0b000_1_0011 = .inr .dualNotShake64 := by decide
theorem test_decode_table_word : decodeTableWord 8 0x0A = some .mix64 := by decide
theorem test_written_form : (Asm.shake64d 0x5000 3 7).mnemonic = "shake64.d" ∧
    (Asm.shake64d 0x5000 3 7).operands = [0x5000, 3, 7] := by decide

/-! ## The primitives (95_test_vectors.md sections 3 and 4) -/

theorem test_rotl32_high_bits_ignored :
    responseOf (rotl32Command (running [] (primReq 0x04 0xAAAAAAAA12345678 14 9))) =
      some (good32 0x159E048D) := by decide +kernel
theorem test_rotl32_modulo :
    responseOf (rotl32Command (running [] (primReq 0x04 0x12345678 32 9))) = some (good32 0x12345678) := by
  decide +kernel
theorem test_combine32_word :
    responseOf (combine32Command (testcfg true) (running [] (primReq 0x05 0 1 0))) =
      some (good32 0xA1A92591) := by decide +kernel
theorem test_combine32_guard :
    responseOf (combine32Command (testcfg true) (running [] (primReq 0x05 0x1000 0x61 7))) =
      some (good32 0x90065E1F) := by decide +kernel
theorem test_mix32_guard :
    responseOf (mix32Command (testcfg true) (running [] (primReq 0x06 0x01234567 0x64636261 5))) =
      some (good32 0x28C32057) := by decide +kernel
theorem test_mix32_lane :
    responseOf (mix32Command (testcfg true) (running [] (primReq 0x06 1 0 0))) = some (good32 0xD2D2D280) := by
  decide +kernel
theorem test_scramble32 :
    responseOf (scramble32Command (testcfg true) (running [] (primReq 0x07 0x80000000 5 5))) =
      some (good32 0x1566DE9A) := by decide +kernel
theorem test_rotl64_modulo :
    responseOf (rotl64Command (running [] (primReq 0x08 0x0123456789ABCDEF 81 9))) =
      some (good64 0x8ACF13579BDE0246) := by decide +kernel
theorem test_rotl64_top_bit :
    responseOf (rotl64Command (running [] (primReq 0x08 0x8000000000000001 1 9))) = some (good64 3) := by
  decide +kernel
theorem test_mix64_lane :
    responseOf (mix64Command (testcfg true) (running [] (primReq 0x0A 1 0 0))) = some (good64 0x120) := by
  decide +kernel
theorem test_mix64_guard :
    responseOf (mix64Command (testcfg true) (running [] (primReq 0x0A 0x1111111111111111 0x636261 3))) =
      some (good64 0xBC7D617B1B4AD364) := by decide +kernel
theorem test_scramble64 :
    responseOf (scramble64Command (testcfg true) (running [] (primReq 0x0B 0x7E3DF2F0BDB323B7 5 5))) =
      some (good64 0x8000000080000000) := by decide +kernel
theorem test_tri64_all_ones : tri64 0xFFFFFFFFFFFFFFFF = 0x8000000000000000 := by decide +kernel

/-! ## The hash commands (95_test_vectors.md sections 5, 6, 7) -/

theorem test_shake32_tail_of_every_kind :
    responseOf (shake32Command (testcfg true)
      (running (memAt 0x1003 (msgM 19)) (hashReq 0x01 0x1003 19 0xDEADBEEF))) =
      some (good32 0xFC0A939A) := by decide +kernel
theorem test_shake32_guard_off :
    responseOf (shake32Command (testcfg false)
      (running (memAt 0x1003 (msgM 48)) (hashReq 0x01 0x1003 48 0xDEADBEEF))) =
      some (good32 0x722824ED) := by decide +kernel
theorem test_shake64_dual_guard_on :
    responseOf (shake64Command (testcfg true) true
      (running (memAt 0x1003 (msgM 96)) (hashReq 0x12 0x1003 96 0x0123456789ABCDEF))) =
      some { err := 0, digest := some 0x7B7FB9AB6606E4A1, digest2 := some 0xCBC3E910A2855448, info := none } := by
  decide +kernel
theorem test_shake64_guard_off :
    responseOf (shake64Command (testcfg false) false
      (running (memAt 0x1003 (msgM 104)) (hashReq 0x02 0x1003 104 0x0123456789ABCDEF))) =
      some (good64 0x2CB752BA184535D5) := by decide +kernel
theorem test_stir_abc :
    responseOf (stirCommand (running (memAt 0x1003 [0x61, 0x62, 0x63]) (hashReq 0x03 0x1003 3 0))) =
      some (good32 0x230DF972) := by decide +kernel
theorem test_stir_bytes_are_unsigned :
    responseOf (stirCommand (running (memAt 0x1003 [0xFF]) (hashReq 0x03 0x1003 1 0xFFFFFFFF))) =
      some (good32 0x549B574C) := by decide +kernel

/-! ## Faults (95_test_vectors.md section 8) -/

theorem test_fault_dual_on_shake32 :
    responseOf (step (waiting [] (hashReq 0x11 0 0 0))) =
      some { err := 1, digest := none, digest2 := none, info := some 0x11 } := by decide +kernel
theorem test_fault_illegal_beats_wrap :
    responseOf (step (waiting [] (hashReq 0xFF 0xFFFFFFFFFFFFFFFF 2 0))) =
      some { err := 1, digest := none, digest2 := none, info := some 0xFF } := by decide +kernel
theorem test_fault_wrap :
    responseOf (step (waiting [] (hashReq 0x01 0xFFFFFFFFFFFFFFF0 0x11 0))) =
      some { err := 2, digest := none, digest2 := none, info := some 0xFFFFFFFFFFFFFFF0 } := by decide +kernel
theorem test_no_wrap_at_the_top :
    responseOf (shake32Command (testcfg true)
      (running (memAt 0xFFFFFFFFFFFFFFF0 ((List.range 16).map fun k => BitVec.ofNat 8 (0xA0 + k)))
        (hashReq 0x01 0xFFFFFFFFFFFFFFF0 0x10 0))) = some (good32 0xE8F9D66E) := by decide +kernel
theorem test_fault_access :
    responseOf (step (waiting (memAt 0x1000 (msgM 16)) (hashReq 0x01 0x1000 20 0))) =
      some { err := 3, digest := none, digest2 := none, info := some 0x1010 } := by decide +kernel
theorem test_fault_access_reads :
    addressesOf (step (waiting (memAt 0x1000 (msgM 16)) (hashReq 0x01 0x1000 20 0))) =
      (List.range 16).map fun k => BitVec.ofNat 64 (0x1000 + k) := by decide +kernel
theorem test_fault_access_reads_nothing :
    addressesOf (step (waiting (memAt 0x1000 (msgM 16)) (hashReq 0x02 0x0FFF 1 0))) = [] := by decide +kernel
theorem test_empty_message_at_the_top :
    responseOf (step (waiting [] (hashReq 0x03 0xFFFFFFFFFFFFFFFF 0 5))) = some (good32 5) := by decide +kernel

/-! ## One phase at a time (95_test_vectors.md section 9, program 5) -/

/-- Program 5 before a phase. -/
def program5 (ph : Phase) (pos : Word64) (lanes : Lanes32) : State :=
  { running (memAt 0x1003 (msgM 17)) (hashReq 0x01 0x1003 0x11 0x11) with
    phase := ph
    regs := { Regs.zero with captured := hashReq 0x01 0x1003 0x11 0x11, gd := 0x11, pos := pos, s32 := lanes } }

theorem test_phase_bulk :
    lanes32Of (phaseStep (testcfg true)
      (program5 .bulk 0 #v[0x01234567, 0x89ABCDEF, 0xFEDCBA98, 0x76543210])) =
      some ([0x35509D3C, 0x064C604F, 0x7AC88CB5, 0x9DFDB3A4], .lenfold) := by decide +kernel
theorem test_phase_bytes :
    lanes32Of (phaseStep (testcfg true)
      (program5 .bytes 16 #v[0x9082C18B, 0x064C604F, 0x765016A5, 0x9DFDB3A4])) =
      some ([0x04481897, 0x064C604F, 0x765016A5, 0x9DFDB3A4], .final) := by decide +kernel

/-! ## Witnesses: states and operands that meet the hypotheses of the statements

Each names the statement it is for. -/

/-- A STIR request for three bytes at 0x1000. -/
def stir3 : Request := hashReq 0x03 0x1000 3 1

/-- One byte past the top of the address space. -/
def wrapping : Request := hashReq 0x01 0xFFFFFFFFFFFFFFF0 0x11 0

/-- Up to the top of the address space and no further. -/
def topmost : Request := hashReq 0x03 0xFFFFFFFFFFFFFFFE 2 0

theorem wrapping_does_not_fit : ¬ rangeFits wrapping := by
  rintro (h | h) <;> revert h <;> decide

theorem topmost_fits : rangeFits topmost := .inr (by decide)

/-- A hasher that has read the first of three bytes; a request waits. -/
def busyStir : State :=
  { State.reset with
    phase := .bytes
    regs := { Regs.zero with captured := stir3, pos := 1 }
    request := some (hashReq 0x01 0 0 0)
    mem := memAt 0x1000 (msgM 3) }

theorem busyStir_inv : MachineInv busyStir :=
  ⟨by decide, fun _ => rfl, fun _ => ⟨.stir, rfl, fun _ => by decide, (by decide : (1 : Nat) < 3), fun _ => trivial⟩,
    fun _ _ h => nomatch h⟩

theorem ready_waiting (mem : Memory) (q : Request) : Ready (waiting mem q) q := ⟨rfl, rfl, rfl, rfl⟩

theorem witness_EncodeOfDecode : decode 0x12 = .ok (.shake64 true) := rfl

theorem witness_DecodeFollowsOpcodeMap_row :
    (⟨"SHAKE64", 0x02, 0xEF, .h⟩ : OpRow) ∈ opRows ∧ OpRow.selects ⟨"SHAKE64", 0x02, 0xEF, .h⟩ 0x12 = true := by
  decide

theorem witness_DecodeFollowsOpcodeMap_reserved : ∀ r ∈ opRows, r.selects 0x13 = false := by decide

theorem witness_ReservedByteRaisesIllegalCommand :
    Ready (waiting [] (hashReq 0x09 0 0 0)) (hashReq 0x09 0 0 0) ∧ (hashReq 0x09 0 0 0).cmd ∉ legalBytes :=
  ⟨ready_waiting _ _, by decide⟩

theorem witness_StepRunsDecodedCommand :
    Ready (waiting [] (hashReq 0x03 0 0 0)) (hashReq 0x03 0 0 0) ∧
      decode (hashReq 0x03 0 0 0).cmd = .ok .stir := ⟨ready_waiting _ _, rfl⟩

theorem witness_NothingEnabledChangesNothing_no_request :
    State.reset.turns = [] ∧ State.reset.phase = .idle ∧ State.reset.request = none := ⟨rfl, rfl, rfl⟩

/-- An idle hasher whose response waits while another request is there. -/
def answered : State := { waiting [] (hashReq 0x03 0 0 0) with response := some (good64 0) }

theorem witness_NothingEnabledChangesNothing_response :
    answered.turns = [] ∧ answered.phase = .idle ∧ answered.response ≠ none := ⟨rfl, rfl, by decide⟩

theorem witness_HostPresentsAndTakes_present :
    ({ State.reset with turns := [.present stir3] } : State).turns = .present stir3 :: [] ∧
      ({ State.reset with turns := [.present stir3] } : State).request = none := ⟨rfl, rfl⟩

theorem witness_HostPresentsAndTakes_take :
    ({ answered with turns := [.take] } : State).turns = .take :: [] ∧
      ({ answered with turns := [.take] } : State).response = some (good64 0) := ⟨rfl, rfl⟩

/-- For BusyHoldsRequests, StepKeepsInv, ReadsStayInsideTheMessage and CursorGrowsByBytesRead: a busy state
with the invariant whose step answers a busy state. -/
theorem witness_busy_step : MachineInv busyStir ∧ busyStir.phase ≠ .idle ∧ busyStir.phase ≠ .init ∧
    (∀ rest, busyStir.turns ≠ .reset :: rest) ∧ busyStir.request ≠ none ∧
    decode busyStir.regs.captured.cmd = .ok .stir ∧ Instr.stir.format = .h ∧
    ∃ t, step busyStir = .next t ∧ t.phase ≠ .idle :=
  ⟨busyStir_inv, by decide, by decide, (fun _ h => by cases h), by decide, rfl, rfl, _, rfl, by decide +kernel⟩

/-- For StepKeepsInv, InvStatesNeverFault and ReadsStayInsideTheMessage: a whole command from an idle state. -/
theorem witness_idle_step : MachineInv (waiting (memAt 0x1000 (msgM 3)) stir3) ∧
    ∃ t, step (waiting (memAt 0x1000 (msgM 3)) stir3) = .next t :=
  ⟨⟨by decide, fun h => absurd rfl h, fun h => absurd rfl h, fun h => absurd rfl h⟩, _, rfl⟩

theorem witness_ResetAbortsTheCommand :
    ({ busyStir with turns := [.reset] } : State).turns = .reset :: [] := rfl

/-- A move of the hasher, and a host write, here into the message in flight. -/
theorem witness_OnlyTheHostWritesMemory :
    ((∀ a b rest, busyStir.turns ≠ .write a b :: rest) ∧ (∀ a rest, busyStir.turns ≠ .unmap a :: rest) ∧
      ∃ t, step busyStir = .next t) ∧
    ({ busyStir with turns := [.write 0x1002 7] } : State).turns = .write 0x1002 7 :: [] :=
  ⟨⟨(fun _ _ _ h => by cases h), (fun _ _ h => by cases h), _, rfl⟩, rfl⟩

/-- The last address of the message in flight. -/
theorem witness_WriteInFlightKeepsTheOldAnswer :
    ({ busyStir with turns := [.write 0x1002 7] } : State).turns = .write 0x1002 7 :: [] ∧
      busyStir.phase ≠ .idle ∧ decode busyStir.regs.captured.cmd = .ok .stir ∧ Instr.stir.format = .h ∧
      busyStir.regs.captured.addr.toNat ≤ (0x1002 : Word64).toNat ∧
      (0x1002 : Word64).toNat < busyStir.regs.captured.addr.toNat + busyStir.regs.captured.len.toNat := by
  decide

/-- A host write into the message in flight leaves the hasher the old byte and the new one. -/
theorem test_write_in_flight_answers :
    (busyStir.hostWrite 0x1001 9).answers 0x1001 = [some 9, some 2] ∧
      (busyStir.hostWrite 0x1003 9).answers 0x1003 = [some 9] := by decide

theorem test_byte_read_after_write_in_flight :
    (busyStir.hostWrite 0x1001 9).sample 0x1001 = some 9 ∨ (busyStir.hostWrite 0x1001 9).sample 0x1001 = some 2 := by
  have h := State.sample_mem_answers (busyStir.hostWrite 0x1001 9) 0x1001
  rw [test_write_in_flight_answers.1] at h
  simpa using h

theorem witness_AnswersAreThoseSinceAcceptance_accepts :
    (({ waiting (memAt 0x1000 (msgM 3)) stir3 with turns := [.phase] } : State).phase = .idle) ∧
      ∃ t, step { waiting (memAt 0x1000 (msgM 3)) stir3 with turns := [.phase] } = .next t ∧ t.phase ≠ .idle :=
  ⟨rfl, _, rfl, by decide⟩

/-- The first address of the message in flight. -/
theorem witness_AnswersAreThoseSinceAcceptance_busy : (∃ t, step busyStir = .next t ∧ t.phase ≠ .idle) ∧
    busyStir.phase ≠ .idle ∧ busyStir.inFlight 0x1000 = true :=
  ⟨⟨_, rfl, by decide +kernel⟩, by decide, by decide⟩

/-- A command with a host write into its message between its phases. -/
def interleaved : State :=
  { waiting (memAt 0x1000 (msgM 3)) stir3 with turns := [.phase, .phase, .phase, .write 0x1000 9] }

/-- The range fits, and every byte is read. -/
theorem witness_ResponseIsDigestOfBytesHeld_good : interleaved.phase = .idle ∧ interleaved.response = none ∧
    interleaved.request = some stir3 ∧ decode stir3.cmd = .ok .stir ∧ Instr.stir.format = .h ∧
    interleaved.turns = .phase :: [.phase, .phase, .write 0x1000 9] ∧
    Turn.take ∉ [Turn.phase, .phase, .write 0x1000 9] ∧ Turn.reset ∉ [Turn.phase, .phase, .write 0x1000 9] ∧
    rangeFits stir3 ∧
    ∃ t p, Sys2Proof.core.run 7 interleaved = .next t ∧ t.response = some p ∧ p.err = 0 :=
  ⟨rfl, rfl, rfl, rfl, rfl, rfl, by decide, by decide, .inr (by decide), _, _, rfl, rfl, rfl⟩

/-- The same, with the last byte of the message refused. -/
theorem witness_ResponseIsDigestOfBytesHeld_refused :
    ({ interleaved with mem := memAt 0x1000 (msgM 2) } : State).turns =
      .phase :: [.phase, .phase, .write 0x1000 9] ∧
    ∃ t p, Sys2Proof.core.run 6 { interleaved with mem := memAt 0x1000 (msgM 2) } = .next t ∧
      t.response = some p ∧ p.err = 3 ∧ p.info = some 0x1002 :=
  ⟨rfl, _, _, rfl, rfl, rfl, rfl⟩

/-- The range wraps. -/
theorem witness_ResponseIsDigestOfBytesHeld_wraps : ¬ rangeFits wrapping ∧
    ∃ t p, Sys2Proof.core.run 1 { waiting [] wrapping with turns := [.phase] } = .next t ∧
      t.response = some p ∧ p.err = 2 :=
  ⟨wrapping_does_not_fit, _, _, rfl, rfl, rfl⟩

/-- A request presented while another waits. -/
theorem witness_BlockedHostMovesStay_present : MachineInv { busyStir with turns := [.present stir3] } ∧
    ({ busyStir with turns := [.present stir3] } : State).turns = .present stir3 :: [] ∧
    ({ busyStir with turns := [.present stir3] } : State).request ≠ none :=
  ⟨⟨by decide, fun _ => rfl,
      fun _ => ⟨.stir, rfl, fun _ => by decide, (by decide : (1 : Nat) < 3), fun _ => trivial⟩,
      fun _ _ h => nomatch h⟩, rfl, by decide⟩

/-- A taking where no response waits. -/
theorem witness_BlockedHostMovesStay_take : MachineInv { State.reset with turns := [.take] } ∧
    ({ State.reset with turns := [.take] } : State).turns = .take :: [] ∧
    ({ State.reset with turns := [.take] } : State).response = none :=
  ⟨⟨by decide, fun h => absurd rfl h, fun h => absurd rfl h, fun h => absurd rfl h⟩, rfl, rfl⟩

theorem witness_FaultStaysRecorded_recorded :
    (∃ t, step { busyStir with faulted := true } = .next t) ∧
      ({ busyStir with faulted := true } : State).faulted = true := ⟨⟨_, rfl⟩, rfl⟩

theorem witness_FaultStaysRecorded_emitted : ∃ t p, step (waiting [] (hashReq 0x09 0 0 0)) = .next t ∧
    (waiting [] (hashReq 0x09 0 0 0)).response = none ∧ t.response = some p ∧ p.err ≠ 0 :=
  ⟨_, _, rfl, rfl, rfl, by decide⟩

theorem witness_FaultPriority_reserved : Ready (waiting [] (hashReq 0x09 0 0 0)) (hashReq 0x09 0 0 0) ∧
    ∀ i, decode (hashReq 0x09 0 0 0).cmd ≠ .ok i := ⟨ready_waiting _ _, fun _ h => by cases h⟩

theorem stir3_fits : rangeFits stir3 := .inr (by decide)

theorem witness_FaultPriority_wraps : Ready (waiting [] wrapping) wrapping ∧
    decode wrapping.cmd = .ok .shake32 ∧ Instr.shake32.format = .h ∧ ¬ rangeFits wrapping :=
  ⟨ready_waiting _ _, rfl, rfl, wrapping_does_not_fit⟩

/-- The last byte of the message is refused (`k = 2`). -/
theorem witness_FaultPriority_last_refused :
    Ready (waiting (memAt 0x1000 (msgM 2)) stir3) stir3 ∧ decode stir3.cmd = .ok .stir ∧ rangeFits stir3 ∧
      2 < stir3.len.toNat ∧
      (∀ j, j < 2 → (memAt 0x1000 (msgM 2)).read (stir3.addr + BitVec.ofNat 64 j) ≠ none) ∧
      (memAt 0x1000 (msgM 2)).read (stir3.addr + BitVec.ofNat 64 2) = none :=
  ⟨ready_waiting _ _, rfl, stir3_fits, by decide, by decide, by decide⟩

/-- The first byte of the message is refused (`k = 0`). -/
theorem witness_FaultPriority_first_refused :
    Ready (waiting [] stir3) stir3 ∧ decode stir3.cmd = .ok .stir ∧ rangeFits stir3 ∧ 0 < stir3.len.toNat ∧
      (∀ j, j < 0 → Memory.read [] (stir3.addr + BitVec.ofNat 64 j) ≠ none) ∧
      Memory.read [] (stir3.addr + BitVec.ofNat 64 0) = none :=
  ⟨ready_waiting _ _, rfl, stir3_fits, by decide, fun _ h => absurd h (Nat.not_lt_zero _), rfl⟩

/-- Every byte is read, up to the top of the address space. -/
theorem witness_FaultPriority_good :
    Ready (waiting (memAt 0xFFFFFFFFFFFFFFFE (msgM 2)) topmost) topmost ∧ decode topmost.cmd = .ok .stir ∧
      rangeFits topmost ∧ messageReadable (memAt 0xFFFFFFFFFFFFFFFE (msgM 2)) topmost :=
  ⟨ready_waiting _ _, rfl, topmost_fits, by unfold messageReadable; decide⟩

/-- Two states that differ in registers and in memory outside the message. -/
theorem witness_ResponseFromRequestAndMessageOnly :
    Ready (waiting (memAt 0x1000 (msgM 3)) stir3) stir3 ∧
      Ready { waiting (memAt 0x1000 (msgM 4)) stir3 with regs := { Regs.zero with h := 9 } } stir3 ∧
      ∀ k, k < stir3.len.toNat → (memAt 0x1000 (msgM 3)).read (stir3.addr + BitVec.ofNat 64 k) =
        (memAt 0x1000 (msgM 4)).read (stir3.addr + BitVec.ofNat 64 k) :=
  ⟨ready_waiting _ _, ⟨rfl, rfl, rfl, rfl⟩, by decide⟩

theorem witness_UnreadFieldsAreIgnored :
    Ready (waiting [] (primReq 0x04 5 6 7)) (primReq 0x04 5 6 7) ∧ decode (primReq 0x04 5 6 7).cmd = .ok .rotl32 ∧
      (hashReq 0x04 9 9 9).cmd = (primReq 0x04 5 6 7).cmd ∧
      sameOperands .rotl32 (primReq 0x04 5 6 7)
        { hashReq 0x04 9 9 9 with a := 0xFFFFFFFF00000005, b := 0x100000006 } :=
  ⟨ready_waiting _ _, rfl, rfl, rfl, rfl⟩

theorem witness_ThirtyTwoBitDigestsAreZeroExtended :
    Instr.mix32 ∈ [Instr.shake32, .stir, .rotl32, .combine32, .mix32, .scramble32] := by decide

/-- For EmptyMessageIsNeverRead, StirOfEmptyMessage, Shake32OfEmptyMessage, Shake64OfEmptyMessage. -/
theorem witness_empty_message : Instr.stir.format = .h ∧
    (running [] (hashReq 0x03 0xFFFFFFFFFFFFFFFF 0 5)).regs.captured.len = 0 := ⟨rfl, rfl⟩

theorem witness_Combine32Bijective :
    (testcfg true).m1.getLsbD 0 = true ∧ (testcfg true).m2.getLsbD 0 = true := by decide

theorem witness_Scramble32Bijective : ({ testcfg true with sm2 := 3 } : Config).shiftsInRange = true ∧
    ({ testcfg true with sm2 := 3 } : Config).sm1.getLsbD 0 = true ∧
    ({ testcfg true with sm2 := 3 } : Config).sm2.getLsbD 0 = true := by decide

theorem witness_Scramble64Bijective : (testcfg true).q1.getLsbD 0 = true := by decide

theorem witness_CondenseWritesLaneZeroOnly : (2 : Fin 12) ≠ 0 := by decide

theorem witness_LittleEndianWords : ([1, 2, 3, 4] : List Byte).length = 4 := rfl

theorem witness_SubWordTail_32 : 1 ≤ ([9] : List Byte).length ∧ ([9] : List Byte).length ≤ 3 ∧
    ([9] : List Byte).length + ([1, 2, 3] : List Byte).length = 4 ∧
    ([1, 2, 3] : List Byte).length ≤ 3 := by decide

theorem witness_SubWordTail_64 : 1 ≤ ([9] : List Byte).length ∧ ([9] : List Byte).length ≤ 7 ∧
    ([9] : List Byte).length + ([1, 2, 3, 4, 5, 6, 7] : List Byte).length = 8 ∧
    ([1, 2, 3, 4, 5, 6, 7] : List Byte).length ≤ 7 := by decide

/-- For StirResult, Shake32Result and Shake64Result, the end `wraps`. -/
theorem witness_HashEnds_wraps : ¬ rangeFits (running [] wrapping).regs.captured := wrapping_does_not_fit

theorem holds3 : HoldsMessage (memAt 0x1000 (msgM 3)).read 0x1000 (msgM 3) := fun k b h => by
  match k, h with
  | 0, h => exact h
  | 1, h => exact h
  | 2, h => exact h
  | k + 3, h => cases h

/-- For StirResult, Shake32Result and Shake64Result, the end `refused`, at the byte after three. -/
theorem witness_HashEnds_refused :
    rangeFits (running (memAt 0x1000 (msgM 3)) (hashReq 0x03 0x1000 4 0)).regs.captured ∧
      (msgM 3).length < (running (memAt 0x1000 (msgM 3)) (hashReq 0x03 0x1000 4 0)).regs.captured.len.toNat ∧
      HoldsMessage (memAt 0x1000 (msgM 3)).read 0x1000 (msgM 3) ∧
      (memAt 0x1000 (msgM 3)).read (0x1000 + BitVec.ofNat 64 (msgM 3).length) = none :=
  ⟨.inr (by decide), by decide, holds3, by decide⟩

/-- For StirResult, Shake32Result and Shake64Result, the end `good`. -/
theorem witness_HashEnds_good : rangeFits (running (memAt 0x1000 (msgM 3)) stir3).regs.captured ∧
    (msgM 3).length = (running (memAt 0x1000 (msgM 3)) stir3).regs.captured.len.toNat ∧
    HoldsMessage (running (memAt 0x1000 (msgM 3)) stir3).mem.read
      (running (memAt 0x1000 (msgM 3)) stir3).regs.captured.addr (msgM 3) :=
  ⟨stir3_fits, by decide, holds3⟩

theorem witness_PrimaryDigestIgnoresDual :
    ({ running [] (hashReq 0x12 0 0 0) with phase := .dual } : State).phase = .dual ∧
      ({ running [] (hashReq 0x12 0 0 0) with phase := .dual } : State).regs.captured.cmd = 0x12 := ⟨rfl, rfl⟩

theorem witness_ShortMessagesUseLaneZeroOnly :
    (15 : Word64).toNat < 16 ∧
      (#v[0x01234567, 1, 2, 3] : Lanes32)[0] = (testcfg true).c32[0] := by decide

theorem witness_PhaseMachineRefinesAtomicStep :
    Ready (waiting (memAt 0x1000 (msgM 3)) stir3) stir3 := ready_waiting _ _

end Sys2Proof.Tests
end

section
/-! PROOFS. 00_scope.md R6: the response is a function of the request and of what memory answers over its
message. The function is fixed before the state is, so two runs that agree on both arguments answer alike. -/

namespace Sys2Proof.Machine

/-- What reading the whole message of a request gives. -/
def State.readMessage (s : State) (q : Request) : ReadResult := readBytes s.mem.read q.addr q.len.toNat

theorem State.readMessage_capture (s : State) (q q' : Request) :
    (s.capture q').readMessage q = s.readMessage q := rfl

/-- Memories that agree over a request's message give the same reads of it. -/
theorem State.readMessage_congr {s s' : State} {q : Request}
    (h : ∀ k, k < q.len.toNat →
      s.mem.read (q.addr + BitVec.ofNat 64 k) = s'.mem.read (q.addr + BitVec.ofNat 64 k)) :
    s.readMessage q = s'.readMessage q :=
  readBytes_ext q.len.toNat q.addr h

/-- The response of a format-H command in the order of 60_exceptions.md R166, from the request, what reading
its message gives, and the good response for a message. -/
def hashResponse (answer : List Byte → Response) (q : Request) (r : ReadResult) : Response :=
  if addrWraps q then .fault .addrWrap q.addr
  else
    match r.refused with
    | some x => .fault .msgAccessFault x
    | none => answer r.bytes

theorem hashCommand_response (i : Instr) (s : State) (answer : List Byte → Response) :
    ∃ t, hashCommand i s answer = .next t ∧
      t.response = some (hashResponse answer s.regs.captured (s.readMessage s.regs.captured)) := by
  rcases hashCommand_cases i s answer with ⟨hw, e⟩ | ⟨hw, x, hr, e⟩ | ⟨hw, hr, e⟩
  · exact ⟨_, e, by simp [hashResponse, hw]⟩
  · exact ⟨_, e, by simp [hashResponse, State.readMessage, hw, hr]⟩
  · exact ⟨_, e, by simp [hashResponse, State.readMessage, hw, hr]⟩

/-- The response of a command is one function of the captured request and the reads of its message. A
primitive's does not use the reads (10_state.md R23). -/
theorem exec_response_of_request_and_reads (i : Instr) :
    ∃ answer : Request → ReadResult → Response, ∀ s, ∃ t, exec i s = .next t ∧
      t.response = some (answer s.regs.captured (s.readMessage s.regs.captured)) := by
  cases i with
  | shake32 =>
    exact ⟨fun q => hashResponse (fun msg =>
      .good (zext64 (shake32Digest Config.build (seed32 q) q.len msg))) q, fun s => by
        rw [exec_shake32]; exact hashCommand_response ..⟩
  | shake64 dual =>
    exact ⟨fun q => hashResponse (fun msg =>
      answer64 Config.build dual (shake64Lanes Config.build q.seed q.len msg)) q, fun s => by
        rw [exec_shake64]; exact hashCommand_response ..⟩
  | stir =>
    exact ⟨fun q => hashResponse (fun msg => .good (zext64 (stirHash (seed32 q) msg))) q, fun s => by
      rw [exec_stir]; exact hashCommand_response ..⟩
  | rotl32 => exact ⟨fun q _ => .good (zext64 (rotl32Value q)), fun s => ⟨_, rfl, rfl⟩⟩
  | combine32 =>
    exact ⟨fun q _ => .good (zext64 (combine32 Config.build (low32 q.a) (low32 q.b) (low32 q.g))),
      fun s => ⟨_, rfl, rfl⟩⟩
  | mix32 =>
    exact ⟨fun q _ => .good (zext64 (Config.build.mix32 (low32 q.a + low32 q.g) (low32 q.b))),
      fun s => ⟨_, rfl, rfl⟩⟩
  | scramble32 =>
    exact ⟨fun q _ => .good (zext64 (scramble32 Config.build (low32 q.a))), fun s => ⟨_, rfl, rfl⟩⟩
  | rotl64 => exact ⟨fun q _ => .good (rotl64Value q), fun s => ⟨_, rfl, rfl⟩⟩
  | mix64 => exact ⟨fun q _ => .good (mix64 Config.build q.a q.b q.g), fun s => ⟨_, rfl, rfl⟩⟩
  | scramble64 => exact ⟨fun q _ => .good (scramble64 Config.build q.a), fun s => ⟨_, rfl, rfl⟩⟩

/-- For a given request, reserved command bytes included, the response is one function of the reads of the
message. -/
theorem runCommand_response_of_reads (q : Request) :
    ∃ answer : ReadResult → Response, ∀ s, ∃ t, runCommand s q = .next t ∧
      t.response = some (answer (s.readMessage q)) := by
  cases hd : decode q.cmd with
  | error e =>
    exact ⟨fun _ => .fault .illegalCommand (q.cmd.setWidth 64), fun s =>
      ⟨(s.capture q).raiseIllegal q.cmd, by simp [runCommand, hd], rfl⟩⟩
  | ok i =>
    obtain ⟨answer, hanswer⟩ := exec_response_of_request_and_reads i
    refine ⟨answer q, fun s => ?_⟩
    obtain ⟨t, ht, hp⟩ := hanswer (s.capture q)
    exact ⟨t, by simp [runCommand, hd, ht], by simpa [State.readMessage_capture] using hp⟩

/-- Settles O20: both runs give the request's one response function the same reads. -/
theorem responseFromRequestAndMessageOnly : Obligations.ResponseFromRequestAndMessageOnly := by
  intro s s' q hs hs' hmem
  obtain ⟨answer, hanswer⟩ := runCommand_response_of_reads q
  obtain ⟨t, ht, hp⟩ := hanswer s
  obtain ⟨t', ht', hp'⟩ := hanswer s'
  refine ⟨t, t', (step_of_ready hs).trans ht, (step_of_ready hs').trans ht', ?_⟩
  rw [hp, hp', State.readMessage_congr hmem]

end Sys2Proof.Machine
end

section
/-! PROOFS. What an arbitrary move can do, and the statements that need no more than that: one command by its
byte, the host's two channel moves, the registers a command leaves alone (10_state.md R22, R26, R30, R35). -/

namespace Sys2Proof.Machine

/-! ## One command -/

@[simp] theorem State.logReads_nil (s : State) : s.logReads [] = s := by
  simp [State.logReads]

/-- Every hash command ends with its own registers dropped and no other. -/
theorem hashCommand_regs (i : Instr) (s : State) (answer : List Byte → Response) :
    ∃ t, hashCommand i s answer = .next t ∧ t.regs = dropRegs i (Config.unspecified s.freeCount) s.regs := by
  rcases hashCommand_cases i s answer with ⟨-, e⟩ | ⟨-, x, -, e⟩ | ⟨-, -, e⟩ <;> exact ⟨_, e, by simp⟩

/-- A primitive command is one response computed from the captured request alone. -/
theorem exec_primitive {i : Instr} (hf : i.format ≠ .h) :
    ∃ answer : Request → Response, ∀ s, exec i s = .next (s.respond i (answer s.regs.captured)) := by
  cases i with
  | shake32 => exact absurd rfl hf
  | shake64 dual => exact absurd rfl hf
  | stir => exact absurd rfl hf
  | rotl32 => exact ⟨fun q => .good (zext64 (rotl32Value q)), fun _ => rfl⟩
  | combine32 =>
    exact ⟨fun q => .good (zext64 (combine32 Config.build (low32 q.a) (low32 q.b) (low32 q.g))), fun _ => rfl⟩
  | mix32 =>
    exact ⟨fun q => .good (zext64 (Config.build.mix32 (low32 q.a + low32 q.g) (low32 q.b))), fun _ => rfl⟩
  | scramble32 => exact ⟨fun q => .good (zext64 (scramble32 Config.build (low32 q.a))), fun _ => rfl⟩
  | rotl64 => exact ⟨fun q => .good (rotl64Value q), fun _ => rfl⟩
  | mix64 => exact ⟨fun q => .good (mix64 Config.build q.a q.b q.g), fun _ => rfl⟩
  | scramble64 => exact ⟨fun q => .good (scramble64 Config.build q.a), fun _ => rfl⟩

/-- Every command ends with its own registers dropped and no other. -/
theorem exec_regs (i : Instr) (s : State) :
    ∃ t, exec i s = .next t ∧ t.regs = dropRegs i (Config.unspecified s.freeCount) s.regs := by
  by_cases hf : i.format = .h
  · cases i with
    | shake32 => exact exec_shake32 s ▸ hashCommand_regs ..
    | shake64 dual => exact exec_shake64 dual s ▸ hashCommand_regs ..
    | stir => exact exec_stir s ▸ hashCommand_regs ..
    | _ => cases hf
  · obtain ⟨answer, h⟩ := exec_primitive hf
    exact ⟨_, h s, rfl⟩

theorem keepsUnused_dropRegs (i : Instr) (free r : Regs) : keepsUnused i r (dropRegs i free r) := by
  cases i <;> simp [keepsUnused, dropRegs]

/-- Settles O31: what a command drops does not meet what it has no use for. -/
theorem unusedRegistersAreKept : Obligations.UnusedRegistersAreKept := by
  intro i s
  obtain ⟨t, ht, hr⟩ := exec_regs i s
  exact ⟨t, ht, hr ▸ keepsUnused_dropRegs i _ s.regs⟩

theorem runCommand_of_decode {q : Request} {i : Instr} (s : State) (h : decode q.cmd = .ok i) :
    runCommand s q = exec i (s.capture q) := by
  simp [runCommand, h]

/-- A whole command run on a request, whatever its byte, answers a next state. -/
theorem runCommand_next (s : State) (q : Request) : ∃ t, runCommand s q = .next t := by
  obtain ⟨answer, h⟩ := runCommand_response_of_reads q
  obtain ⟨t, ht, -⟩ := h s
  exact ⟨t, ht⟩

/-- A whole command is reads, one response and the hasher idle, from the state that captured the request. -/
theorem runCommand_emits {s t : State} {q : Request} (h : runCommand s q = .next t) :
    ∃ pairs p r, t = ((s.capture q).logReads pairs).emit p r := by
  cases hd : decode q.cmd with
  | error e =>
    rw [runCommand, hd] at h
    injection h with h
    subst h
    exact ⟨[], _, _, by rw [State.logReads_nil]; rfl⟩
  | ok i => exact exec_emits (runCommand_of_decode s hd ▸ h)

/-! ## One step -/

/-- The hasher's turn at the head of the list is the step with no move listed. -/
theorem step_hasher_turn {s : State} {q : Request} (h : Ready s q) (rest : List Turn) :
    step { s with turns := .hasher :: rest } = runCommand { s with turns := rest } q := by
  simp [step, turnMove, hasherMove, h.idle, h.response, h.request]

/-- Settles O8: both listings of the hasher's move run the decoded command on the captured request. -/
theorem stepRunsDecodedCommand : Obligations.StepRunsDecodedCommand := by
  intro s q i hr hd
  refine ⟨?_, fun rest => ?_⟩
  · rw [step_of_ready hr, runCommand_of_decode s hd]; rfl
  · rw [step_hasher_turn hr, runCommand_of_decode _ hd]; rfl

/-- Settles O10: each of the two host moves is enabled, so it is made as it stands. -/
theorem hostPresentsAndTakes : Obligations.HostPresentsAndTakes := by
  refine ⟨fun s q rest ht hq => ?_, fun s p rest ht hp => ?_⟩
  · simp [step, ht, turnMove, hq]
  · simp [step, ht, turnMove, hp]

/-- Settles O14. -/
theorem resetState : Obligations.ResetState := ⟨rfl, rfl, rfl, rfl⟩

/-- A step is a move of the hasher, or it answers a next state. -/
theorem step_hasherMove_or_next (s : State) :
    (∃ fine rest, step s = hasherMove fine { s with turns := rest }) ∨ ∃ t, step s = .next t := by
  have stays : ∀ fine, ∃ f rest, hasherMove fine s = hasherMove f { s with turns := rest } :=
    fun fine => ⟨fine, s.turns, rfl⟩
  rw [step]
  cases s.turns with
  | nil => exact .inl (stays false)
  | cons x rest =>
    cases x with
    | hasher => exact .inl ⟨false, rest, rfl⟩
    | phase => exact .inl ⟨true, rest, rfl⟩
    | present q =>
      cases hq : s.request with
      | none => exact .inr ⟨{ s with turns := rest, request := some q }, by simp only [turnMove, hq]⟩
      | some q' => exact .inl (by simpa only [turnMove, hq] using stays false)
    | take =>
      cases hp : s.response with
      | none => exact .inl (by simpa only [turnMove, hp] using stays false)
      | some p =>
        exact .inr ⟨{ s with turns := rest, response := none, received := s.received ++ [p] }, by
          simp only [turnMove, hp]⟩
    | reset => exact .inr ⟨_, rfl⟩
    | write a b => exact .inr ⟨_, rfl⟩
    | unmap a => exact .inr ⟨_, rfl⟩

end Sys2Proof.Machine
end

section
/-! PROOFS. The cursor of a hash command (10_state.md R24, R25; 70_reset_and_hazards.md R190): how far a phase
moves it, that the next phase has it where it belongs, and how many phase steps are left. -/

namespace Sys2Proof.Machine

/-! ## SHAKE32 and SHAKE64 -/

/-- The message bytes one step of a phase reads (41_shake32.md R100; 43_shake64.md R141). -/
def shakeBytes (block word len : Nat) : Phase → Nat
  | .bulk => block
  | .words => word
  | .bytes => nb word len
  | .idle | .init | .lenfold | .condense | .dual | .final | .compute => 0

/-- At most so many phase steps are left, the present one counted. -/
def shakeStepsLeft (block word len p : Nat) : Phase → Nat
  | .init => 6 + len % block / word + len / block
  | .bulk => 5 + len % block / word + (len - p) / block
  | .lenfold => 5 + len % block / word
  | .condense => 4 + len % block / word
  | .words => 3 + (len - p) / word
  | .bytes => 3
  | .dual => 2
  | .final => 1
  | .idle | .compute => 0

section
variable {block word : Nat} {dual : Bool} {len p : Nat}

/-- The last multiple of `d` up to `len`, when a further `d` does not fit. -/
theorem eq_mul_div_of_dvd {d : Nat} (hd : d ∣ p) (hle : p ≤ len) (hlt : len < p + d) : p = d * (len / d) := by
  obtain ⟨k, rfl⟩ := hd
  rw [Nat.div_eq_of_lt_le (by rwa [Nat.mul_comm]) (by rwa [Nat.mul_comm, Nat.mul_succ])]

theorem shakeCursor_dualOrFinal (h : p = len) : shakeCursor block word dual len p (dualOrFinal dual) := by
  cases dual <;> simp [dualOrFinal, shakeCursor, h]

theorem shakeCursor_wordsOrLater (hb : block * (len / block) ≤ p) (hw : word ∣ p) (hle : p ≤ len) :
    shakeCursor block word dual len p (wordsOrLater word dual len p) := by
  unfold wordsOrLater
  split
  case isTrue h => exact ⟨hb, hw, h⟩
  case isFalse h =>
    have hp : p = word * (len / word) := eq_mul_div_of_dvd hw hle (by omega)
    have hlen := Nat.div_add_mod len word
    unfold bytesOrLater
    split
    case isTrue ht => exact ⟨by omega, ht⟩
    case isFalse ht => exact shakeCursor_dualOrFinal (by omega)

theorem shakeCursor_bulkOrLater (hb : block ∣ p) (hle : p ≤ len) :
    shakeCursor block word dual len p (bulkOrLater block len p) := by
  unfold bulkOrLater
  split
  case isTrue h => exact ⟨hb, h⟩
  case isFalse h => exact eq_mul_div_of_dvd hb hle (by omega)

/-- A phase reads no further than the end of the message. -/
theorem shakeCursor_fits {ph : Phase} (h : shakeCursor block word dual len p ph) (hi : ph ≠ .init) :
    p + shakeBytes block word len ph ≤ len := by
  have hb := Nat.mul_div_le len block
  have hw := Nat.mod_le len word
  cases ph
  case init => exact absurd rfl hi
  case idle | compute => exact h.elim
  case bulk | lenfold | condense | words | bytes | dual | final =>
    simp only [shakeCursor, shakeBytes, nb] at h ⊢
    omega

/-- The next phase has the cursor where the phase before it leaves it. -/
theorem shakeCursor_next (hd : word ∣ block) {ph : Phase} (h : shakeCursor block word dual len p ph)
    (hi : ph ≠ .init) (hf : ph ≠ .final) :
    shakeCursor block word dual len (p + shakeBytes block word len ph)
      (shakeNext block word dual len (p + shakeBytes block word len ph) ph) := by
  have hle := shakeCursor_fits h hi
  cases ph with
  | idle => exact h.elim
  | init => exact absurd rfl hi
  | bulk =>
    obtain ⟨hb, -⟩ := h
    exact shakeCursor_bulkOrLater (hb.add (dvd_refl block)) hle
  | lenfold =>
    have hp : p = block * (len / block) := h
    simp only [shakeNext, shakeBytes, Nat.add_zero]
    split
    case isTrue hl => exact ⟨hp, hl⟩
    case isFalse => exact shakeCursor_wordsOrLater hp.ge (hp ▸ hd.mul_right _) hle
  | condense =>
    obtain ⟨hp, -⟩ := h
    exact shakeCursor_wordsOrLater hp.ge (hp ▸ hd.mul_right _) hle
  | words =>
    obtain ⟨hb, hw, -⟩ := h
    exact shakeCursor_wordsOrLater (Nat.le_add_right_of_le hb) (hw.add (dvd_refl word)) hle
  | bytes =>
    obtain ⟨hp, -⟩ := h
    have := Nat.mod_le len word
    exact shakeCursor_dualOrFinal (by simp only [shakeBytes, nb]; omega)
  | dual => exact h.2
  | final => exact absurd rfl hf
  | compute => exact h.elim

theorem shakeStepsLeft_dualOrFinal : shakeStepsLeft block word len p (dualOrFinal dual) ≤ 2 := by
  cases dual <;> simp [dualOrFinal, shakeStepsLeft]

theorem shakeStepsLeft_wordsOrLater :
    shakeStepsLeft block word len p (wordsOrLater word dual len p) ≤ 3 + (len - p) / word := by
  unfold wordsOrLater
  split
  case isTrue => exact le_rfl
  case isFalse =>
    unfold bytesOrLater
    split
    case isTrue => exact Nat.le_add_right 3 _
    case isFalse => exact shakeStepsLeft_dualOrFinal.trans (Nat.le_add_right_of_le (by decide))

/-- The same where the full blocks have been read. -/
theorem shakeStepsLeft_wordsOrLater_of_blocks (hp : p = block * (len / block)) :
    shakeStepsLeft block word len p (wordsOrLater word dual len p) ≤ 3 + len % block / word := by
  have hrest : len % block = len - p := hp ▸ Nat.mod_eq_sub_mul_div
  exact hrest ▸ shakeStepsLeft_wordsOrLater

theorem shakeStepsLeft_bulkOrLater :
    shakeStepsLeft block word len p (bulkOrLater block len p) ≤ 5 + len % block / word + (len - p) / block := by
  unfold bulkOrLater
  split
  case isTrue => exact le_rfl
  case isFalse => exact Nat.le_add_right _ _

/-- What is left has one count of `d` more than after `d` bytes of it. -/
theorem sub_div_eq_succ {d : Nat} (hd : 0 < d) (h : p + d ≤ len) :
    (len - p) / d = (len - (p + d)) / d + 1 := by
  rw [Nat.div_eq_sub_div hd (by omega), Nat.sub_sub]

theorem sub_div_lt {d : Nat} (hd : 0 < d) (h : p + d ≤ len) : (len - (p + d)) / d < (len - p) / d :=
  sub_div_eq_succ hd h ▸ Nat.lt_succ_self _

theorem shakeStepsLeft_next (hb : 0 < block) (hw : 0 < word) {ph : Phase}
    (h : shakeCursor block word dual len p ph) (hi : ph ≠ .init) (hf : ph ≠ .final) :
    shakeStepsLeft block word len (p + shakeBytes block word len ph)
      (shakeNext block word dual len (p + shakeBytes block word len ph) ph) <
        shakeStepsLeft block word len p ph := by
  cases ph with
  | idle => exact h.elim
  | init => exact absurd rfl hi
  | bulk => exact shakeStepsLeft_bulkOrLater.trans_lt (Nat.add_lt_add_left (sub_div_lt hb h.2) _)
  | lenfold =>
    simp only [shakeNext, shakeBytes, Nat.add_zero]
    split
    case isTrue => exact Nat.add_lt_add_right (by decide) _
    case isFalse => exact (shakeStepsLeft_wordsOrLater_of_blocks h).trans_lt (Nat.add_lt_add_right (by decide) _)
  | condense =>
    exact (shakeStepsLeft_wordsOrLater_of_blocks h.1).trans_lt (Nat.add_lt_add_right (by decide) _)
  | words =>
    obtain ⟨-, -, hle⟩ := h
    exact shakeStepsLeft_wordsOrLater.trans_lt (Nat.add_lt_add_left (sub_div_lt hw hle) _)
  | bytes => exact shakeStepsLeft_dualOrFinal.trans_lt (Nat.lt_succ_self _)
  | dual => exact Nat.lt_succ_self _
  | final => exact absurd rfl hf
  | compute => exact h.elim

end

theorem dualOrFinal_ne_init (dual : Bool) : dualOrFinal dual ≠ .init := by cases dual <;> decide

theorem wordsOrLater_ne_init (word : Nat) (dual : Bool) (len p : Nat) : wordsOrLater word dual len p ≠ .init := by
  unfold wordsOrLater bytesOrLater dualOrFinal
  split_ifs <;> decide

theorem bulkOrLater_ne_init (block len p : Nat) : bulkOrLater block len p ≠ .init := by
  unfold bulkOrLater
  split_ifs <;> decide

theorem shakeNext_ne_init (block word : Nat) (dual : Bool) (len p : Nat) (ph : Phase) :
    shakeNext block word dual len p ph ≠ .init := by
  have hbulk := bulkOrLater_ne_init block len p
  have hwords := wordsOrLater_ne_init word dual len p
  cases ph with
  | init => exact hbulk
  | bulk => exact hbulk
  | lenfold =>
    by_cases hl : block ≤ len
    · simp [shakeNext, hl]
    · simpa [shakeNext, hl] using hwords
  | condense => exact hwords
  | words => exact hwords
  | bytes => exact dualOrFinal_ne_init dual
  | _ => simp [shakeNext]

/-! ## Every command -/

/-- The message bytes one step of a phase of a command reads. -/
def phaseBytes (i : Instr) (len : Nat) (ph : Phase) : Nat :=
  match i with
  | .shake32 => shakeBytes 16 4 len ph
  | .shake64 _ => shakeBytes 96 8 len ph
  | .stir => if ph = .bytes then 1 else 0
  | .rotl32 | .combine32 | .mix32 | .scramble32 | .rotl64 | .mix64 | .scramble64 => 0

/-- Where a phase leaves the cursor: INIT sets it, every other phase moves it by what it reads. -/
def cursorAfter (i : Instr) (len p : Nat) (ph : Phase) : Nat :=
  if ph = .init then 0 else p + phaseBytes i len ph

/-- At most so many phase steps of a hash command are left, the present one counted. -/
def stepsLeft (i : Instr) (len p : Nat) (ph : Phase) : Nat :=
  match i with
  | .shake32 => shakeStepsLeft 16 4 len p ph
  | .shake64 _ => shakeStepsLeft 96 8 len p ph
  | .stir => if ph = .init then len + 2 else len - p + 1
  | .rotl32 | .combine32 | .mix32 | .scramble32 | .rotl64 | .mix64 | .scramble64 => 1

theorem cursorAfter_init (i : Instr) (len p : Nat) : cursorAfter i len p .init = 0 := rfl

theorem cursorAfter_of_ne_init {ph : Phase} (h : ph ≠ .init) (i : Instr) (len p : Nat) :
    cursorAfter i len p ph = p + phaseBytes i len ph := if_neg h

section
variable {i : Instr} {len p : Nat} {ph : Phase}

theorem cursorOk_fits (hf : i.format = .h) (h : cursorOk i len p ph) (hi : ph ≠ .init) :
    p + phaseBytes i len ph ≤ len := by
  cases i with
  | shake32 => exact shakeCursor_fits h hi
  | shake64 dual => exact shakeCursor_fits h hi
  | stir =>
    cases ph with
    | init => exact absurd rfl hi
    | bytes => exact h
    | final => exact Nat.le_of_eq h
    | _ => exact h.elim
  | _ => cases hf

theorem cursorOk_final (hf : i.format = .h) (h : cursorOk i len p .final) : p = len := by
  cases i with
  | shake32 => exact h
  | shake64 dual => exact h
  | stir => exact h
  | _ => cases hf

theorem stirCursor_next (h : stirCursor len p ph) (hf : ph ≠ .final) :
    stirCursor len (cursorAfter .stir len p ph) (stirNext len (cursorAfter .stir len p ph) ph) := by
  cases ph with
  | init =>
    rw [cursorAfter_init, stirNext]
    by_cases hl : 0 < len
    · rw [if_pos hl]; exact hl
    · rw [if_neg hl]; exact (Nat.eq_zero_of_not_pos hl).symm
  | bytes =>
    have hp : p < len := h
    simp only [cursorAfter, phaseBytes, stirNext, reduceCtorEq, if_false, if_true]
    split
    case isTrue hl => exact hl
    case isFalse hl => exact (by omega : p + 1 = len)
  | final => exact absurd rfl hf
  | _ => exact h.elim

/-- The next phase of a hash command has the cursor where the phase before it leaves it. -/
theorem cursorOk_next (hfmt : i.format = .h) (h : cursorOk i len p ph) (hf : ph ≠ .final) :
    cursorOk i len (cursorAfter i len p ph) (nextPhase i len (cursorAfter i len p ph) ph) := by
  cases i with
  | shake32 =>
    by_cases hi : ph = .init
    · subst hi; exact shakeCursor_bulkOrLater (dvd_zero _) (Nat.zero_le _)
    · rw [cursorAfter_of_ne_init hi]; exact shakeCursor_next (by decide) h hi hf
  | shake64 dual =>
    by_cases hi : ph = .init
    · subst hi; exact shakeCursor_bulkOrLater (dvd_zero _) (Nat.zero_le _)
    · rw [cursorAfter_of_ne_init hi]; exact shakeCursor_next (by decide) h hi hf
  | stir => exact stirCursor_next h hf
  | _ => cases hfmt

theorem stirNext_ne_init (len p : Nat) (ph : Phase) : stirNext len p ph ≠ .init := by
  have hbytes : (if p < len then Phase.bytes else Phase.final) ≠ .init := by split_ifs <;> decide
  cases ph with
  | init => exact hbytes
  | bytes => exact hbytes
  | _ => simp [stirNext]

/-- INIT is not entered again. -/
theorem nextPhase_ne_init (i : Instr) (len p : Nat) (ph : Phase) : nextPhase i len p ph ≠ .init := by
  cases i with
  | shake32 => exact shakeNext_ne_init 16 4 false len p ph
  | shake64 dual => exact shakeNext_ne_init 96 8 dual len p ph
  | stir => exact stirNext_ne_init len p ph
  | _ => simp [nextPhase]

/-- Each phase step of a hash command leaves fewer to come. -/
theorem stepsLeft_next (hfmt : i.format = .h) (h : cursorOk i len p ph) (hf : ph ≠ .final) :
    stepsLeft i len (cursorAfter i len p ph) (nextPhase i len (cursorAfter i len p ph) ph) <
      stepsLeft i len p ph := by
  cases i with
  | shake32 =>
    by_cases hi : ph = .init
    · subst hi
      exact shakeStepsLeft_bulkOrLater.trans_lt (by simp only [stepsLeft, shakeStepsLeft, cursorAfter_init]; omega)
    · rw [cursorAfter_of_ne_init hi]
      exact shakeStepsLeft_next (by decide) (by decide) h hi hf
  | shake64 dual =>
    by_cases hi : ph = .init
    · subst hi
      exact shakeStepsLeft_bulkOrLater.trans_lt (by simp only [stepsLeft, shakeStepsLeft, cursorAfter_init]; omega)
    · rw [cursorAfter_of_ne_init hi]
      exact shakeStepsLeft_next (by decide) (by decide) h hi hf
  | stir =>
    have hn := nextPhase_ne_init .stir len (cursorAfter .stir len p ph) ph
    simp only [stepsLeft, if_neg hn]
    cases ph with
    | init => simp [cursorAfter]
    | bytes =>
      have hp : p < len := h
      simp only [cursorAfter, phaseBytes, reduceCtorEq, if_false, if_true]
      omega
    | final => exact absurd rfl hf
    | _ => exact h.elim
  | _ => cases hfmt

end

end Sys2Proof.Machine
end

section
/-! PROOFS. What one phase does (10_state.md R25), once for SHAKE32 and SHAKE64: a phase that goes on reads some
bytes at the cursor (possibly none) and writes registers; FINAL answers. -/

namespace Sys2Proof.Machine

/-! ## The lanes under the phases of SHAKE32 and SHAKE64 -/

/-- The two algorithms differ in the lanes, the sizes and these five functions (41_shake32.md R93 to R97;
43_shake64.md R133 to R137). -/
structure ShakeOps (σ : Type) where
  block : Nat
  word : Nat
  onBlock : σ → List Byte → σ
  lenfold : σ → σ
  condense : σ → σ
  onWord : σ → List Byte → σ
  onBytes : σ → List Byte → σ

/-- SHAKE32's, with the guard term and the length fixed. -/
def shake32Ops (c : Config) (gd : Word32) (len : Word64) : ShakeOps Lanes32 :=
  { block := 16
    word := 4
    onBlock := block32 c gd
    lenfold := fun s => lenfold32 c gd s len
    condense := condense32 c gd
    onWord := wordTail32 c gd
    onBytes := byteTail32 c gd }

/-- SHAKE64's, with the guard term and the length fixed. -/
def shake64Ops (c : Config) (gd len : Word64) : ShakeOps Lanes64 :=
  { block := 96
    word := 8
    onBlock := block64 c gd
    lenfold := fun s => lenfold64 c gd s len
    condense := fun s => condense64 c s gd
    onWord := tail64 c gd
    onBytes := tail64 c gd }

/-- What one step of a phase does to the lanes, given the bytes it read. -/
def ShakeOps.run {σ : Type} (o : ShakeOps σ) : Phase → σ → List Byte → σ
  | .bulk, s, bs => o.onBlock s bs
  | .lenfold, s, _ => o.lenfold s
  | .condense, s, _ => o.condense s
  | .words, s, bs => o.onWord s bs
  | .bytes, s, bs => o.onBytes s bs
  | .idle, s, _ | .init, s, _ | .dual, s, _ | .final, s, _ | .compute, s, _ => s

/-! ## The work of a phase -/

/-- What a phase does: it answers; or it reads `n` bytes at the cursor and writes registers that depend on
them; or it is no phase of the command. -/
inductive PhaseWork where
  | answer (p : Response)
  | read (n : Nat) (write : List Byte → Regs)
  | absent

/-- One phase's work, done. -/
def State.perform (s : State) (i : Instr) : PhaseWork → Result
  | .answer p => .next (s.respond i p)
  | .read n write => .next (s.readPhase i n write)
  | .absent => .fault .noSuchPhase

/-- The cursor after `n` more bytes. -/
def Regs.cursor (r : Regs) (n : Nat) : Word64 := r.pos + BitVec.ofNat 64 n

def shake32Work (c : Config) (r : Regs) (ph : Phase) : PhaseWork :=
  let n := shakeBytes 16 4 r.captured.len.toNat ph
  match ph with
  | .init =>
    let gd := guardTerm c (seed32 r.captured)
    .read 0 fun _ => { r with gd := zext64 gd, s32 := init32 c (seed32 r.captured) gd, pos := 0 }
  | .bulk | .lenfold | .condense | .words | .bytes =>
    .read n fun bs =>
      { r with s32 := (shake32Ops c r.gd32 r.captured.len).run ph r.s32 bs, pos := r.cursor n }
  | .final => .answer (.good (zext64 (final32 c r.s32)))
  | .idle | .dual | .compute => .absent

def shake64Work (c : Config) (dual : Bool) (r : Regs) (ph : Phase) : PhaseWork :=
  let n := shakeBytes 96 8 r.captured.len.toNat ph
  match ph with
  | .init =>
    let gd := guardTerm c r.captured.seed
    .read 0 fun _ => { r with gd := gd, s64 := init64 c r.captured.seed gd, pos := 0 }
  | .bulk | .lenfold | .condense | .words | .bytes =>
    .read n fun bs => { r with s64 := (shake64Ops c r.gd r.captured.len).run ph r.s64 bs, pos := r.cursor n }
  | .dual => if dual then .read 0 fun _ => { r with d2 := dual64 c r.s64 } else .absent
  | .final => .answer (if dual then .goodDual (final64 c r.s64) r.d2 else .good (final64 c r.s64))
  | .idle | .compute => .absent

def stirWork (r : Regs) : Phase → PhaseWork
  | .init => .read 0 fun _ => { r with h := seed32 r.captured, pos := 0 }
  | .bytes => .read 1 fun bs => { r with h := stirHash r.h bs, pos := r.cursor 1 }
  | .final => .answer (.good (zext64 r.h))
  | .idle | .bulk | .lenfold | .condense | .words | .dual | .compute => .absent

/-- The work of a phase of a hash command; a primitive command has none of these phases. -/
def hashWork (c : Config) (i : Instr) (r : Regs) (ph : Phase) : PhaseWork :=
  match i with
  | .shake32 => shake32Work c r ph
  | .shake64 dual => shake64Work c dual r ph
  | .stir => stirWork r ph
  | .rotl32 | .combine32 | .mix32 | .scramble32 | .rotl64 | .mix64 | .scramble64 => .absent

/-! ## The phase machine does that work -/

@[simp] theorem Regs.cursor_zero (r : Regs) : r.cursor 0 = r.pos := by
  simp [Regs.cursor]

/-- A phase that reads nothing advances. -/
theorem State.readPhase_zero (s : State) (i : Instr) (write : List Byte → Regs) :
    s.readPhase i 0 write = s.advance i (write []) := by
  simp [State.readPhase, ReadResult.bytes]

theorem phaseShake32_eq_perform (c : Config) (s : State) :
    phaseShake32 c s = s.perform .shake32 (shake32Work c s.regs s.phase) := by
  cases hp : s.phase <;>
    simp [phaseShake32, shake32Work, State.perform, hp, State.readPhase_zero, shakeBytes, ShakeOps.run, shake32Ops,
      Regs.cursor]

theorem phaseShake64_eq_perform (c : Config) (dual : Bool) (s : State) :
    phaseShake64 c dual s = s.perform (.shake64 dual) (shake64Work c dual s.regs s.phase) := by
  cases hp : s.phase <;> cases dual <;>
    simp [phaseShake64, shake64Work, State.perform, hp, State.readPhase_zero, shakeBytes, ShakeOps.run, shake64Ops,
      Regs.cursor]

theorem phaseStir_eq_perform (s : State) : phaseStir s = s.perform .stir (stirWork s.regs s.phase) := by
  cases hp : s.phase <;> simp [phaseStir, stirWork, State.perform, hp, State.readPhase_zero, Regs.cursor]

/-- A phase step of a hash command does the phase's work. -/
theorem phaseStep_hash (c : Config) {s : State} {i : Instr} (hd : decode s.regs.captured.cmd = .ok i)
    (hf : i.format = .h) : phaseStep c s = s.perform i (hashWork c i s.regs s.phase) := by
  cases i with
  | shake32 => simpa [phaseStep, hd, hashWork] using phaseShake32_eq_perform c s
  | shake64 dual => simpa [phaseStep, hd, hashWork] using phaseShake64_eq_perform c dual s
  | stir => simpa [phaseStep, hd, hashWork] using phaseStir_eq_perform s
  | _ => cases hf

/-- A phase step of a primitive command is the whole command, in its one phase. -/
theorem phaseStep_primitive {s : State} {i : Instr} (hd : decode s.regs.captured.cmd = .ok i)
    (hf : i.format ≠ .h) :
    phaseStep Config.build s = if s.phase = .compute then exec i s else .fault .noSuchPhase := by
  cases i with
  | shake32 => exact absurd rfl hf
  | shake64 dual => exact absurd rfl hf
  | stir => exact absurd rfl hf
  | _ => simp only [phaseStep, hd]; rfl

/-! ## What the work of a phase writes -/

/-- What the registers a phase writes have of those it found: the captured request; all that the command does
not drop when it ends; the cursor moved by the `n` bytes read, or set by INIT; the guard term, which INIT puts in. -/
structure PhaseWrites (i : Instr) (r : Regs) (ph : Phase) (n : Nat) (r' : Regs) : Prop where
  captured : r'.captured = r.captured
  dropped : ∀ free, dropRegs i free r' = dropRegs i free r
  pos : r'.pos = if ph = .init then 0 else r.cursor n
  guard : (ph ≠ .init → guardHeld i r) → guardHeld i r'

section
variable {r : Regs} {ph : Phase} {n : Nat} {write : List Byte → Regs}

theorem shake32Work_writes (h : shake32Work Config.build r ph = .read n write) :
    n = phaseBytes .shake32 r.captured.len.toNat ph ∧ ∀ bs, PhaseWrites .shake32 r ph n (write bs) := by
  cases ph
  case init => cases h; exact ⟨rfl, fun bs => ⟨rfl, fun _ => rfl, rfl, fun _ => rfl⟩⟩
  case bulk | lenfold | condense | words | bytes =>
    cases h; exact ⟨rfl, fun bs => ⟨rfl, fun _ => rfl, rfl, fun hg => hg (by decide)⟩⟩
  case idle | dual | final | compute => cases h

theorem shake64Work_writes {dual : Bool} (h : shake64Work Config.build dual r ph = .read n write) :
    n = phaseBytes (.shake64 dual) r.captured.len.toNat ph ∧
      ∀ bs, PhaseWrites (.shake64 dual) r ph n (write bs) := by
  cases ph
  case init => cases h; exact ⟨rfl, fun bs => ⟨rfl, fun _ => rfl, rfl, fun _ => rfl⟩⟩
  case bulk | lenfold | condense | words | bytes =>
    cases h; exact ⟨rfl, fun bs => ⟨rfl, fun _ => rfl, rfl, fun hg => hg (by decide)⟩⟩
  case dual =>
    cases dual <;> cases h
    exact ⟨rfl, fun bs => ⟨rfl, fun _ => rfl, (Regs.cursor_zero r).symm, fun hg => hg (by decide)⟩⟩
  case idle | final | compute => cases h

theorem stirWork_writes (h : stirWork r ph = .read n write) :
    n = phaseBytes .stir r.captured.len.toNat ph ∧ ∀ bs, PhaseWrites .stir r ph n (write bs) := by
  cases ph
  case init | bytes => cases h; exact ⟨rfl, fun bs => ⟨rfl, fun _ => rfl, rfl, fun _ => trivial⟩⟩
  case idle | bulk | lenfold | condense | words | dual | final | compute => cases h

/-- A phase of a hash command that reads, reads the bytes R25 gives it, and writes no more than it may. -/
theorem hashWork_writes {i : Instr} (h : hashWork Config.build i r ph = .read n write) :
    n = phaseBytes i r.captured.len.toNat ph ∧ ∀ bs, PhaseWrites i r ph n (write bs) := by
  cases i with
  | shake32 => exact shake32Work_writes h
  | shake64 dual => exact shake64Work_writes h
  | stir => exact stirWork_writes h
  | _ => cases h

end

section
variable {i : Instr} {r : Regs} {ph : Phase}

/-- FINAL answers. -/
theorem hashWork_final (hf : i.format = .h) : ∃ p, hashWork Config.build i r .final = .answer p := by
  cases i with
  | shake32 => exact ⟨_, rfl⟩
  | shake64 dual => exact ⟨_, rfl⟩
  | stir => exact ⟨_, rfl⟩
  | _ => cases hf

/-- Any other phase that has the cursor where it should goes on. -/
theorem hashWork_of_cursorOk {len p : Nat} (hfmt : i.format = .h) (h : cursorOk i len p ph) (hf : ph ≠ .final) :
    ∃ n write, hashWork Config.build i r ph = .read n write := by
  cases i with
  | shake32 =>
    cases ph
    case init | bulk | lenfold | condense | words | bytes => exact ⟨_, _, rfl⟩
    case final => exact absurd rfl hf
    case dual => cases h.1
    case idle | compute => exact h.elim
  | shake64 dual =>
    cases ph
    case init | bulk | lenfold | condense | words | bytes => exact ⟨_, _, rfl⟩
    case final => exact absurd rfl hf
    case dual => obtain ⟨rfl, -⟩ := h; exact ⟨_, _, rfl⟩
    case idle | compute => exact h.elim
  | stir =>
    cases ph
    case init | bytes => exact ⟨_, _, rfl⟩
    case final => exact absurd rfl hf
    case idle | bulk | lenfold | condense | words | dual | compute => exact h.elim
  | _ => cases hfmt

end

end Sys2Proof.Machine
end

section
/-! PROOFS. The invariant of the machine (10_state.md R24 to R26, R29, R31): it holds after reset, every step
keeps it, and from it no step meets a phase its command has not; what a busy step leaves of the requests and how
it moves the cursor. -/

namespace Sys2Proof.Machine

/-! ## A command in progress -/

section
variable {s t : State} {i : Instr}

/-- That a command is in progress is a matter of the registers and the phase. -/
theorem CommandInProgress.congr (h : CommandInProgress s i) (hr : t.regs = s.regs) (hp : t.phase = s.phase) :
    CommandInProgress t i := by
  obtain ⟨legal, range, cursor, guard⟩ := h
  exact ⟨hr ▸ legal, hr ▸ range, hr ▸ hp ▸ cursor, hr ▸ hp ▸ guard⟩

theorem CommandInProgress.compute (h : CommandInProgress s i) (hf : i.format ≠ .h) : s.phase = .compute := by
  have hc := h.cursor
  cases i with
  | shake32 => exact absurd rfl hf
  | shake64 dual => exact absurd rfl hf
  | stir => exact absurd rfl hf
  | _ => exact hc

/-- A phase of a hash command leaves the cursor where it should; the sum does not wrap, as it stays within the
message. -/
theorem PhaseWrites.pos_toNat {r r' : Regs} {ph : Phase} {n : Nat} (w : PhaseWrites i r ph n r')
    (hn : n = phaseBytes i r.captured.len.toNat ph) (hf : i.format = .h)
    (hc : cursorOk i r.captured.len.toNat r.pos.toNat ph) :
    r'.pos.toNat = cursorAfter i r.captured.len.toNat r.pos.toNat ph := by
  rw [w.pos]
  by_cases hi : ph = .init
  · rw [if_pos hi, hi]; rfl
  · have hle := cursorOk_fits hf hc hi
    have hlt := r.captured.len.isLt
    rw [if_neg hi, cursorAfter_of_ne_init hi, ← hn, Regs.cursor, BitVec.toNat_add, BitVec.toNat_ofNat]
    omega

/-- A phase of a hash command that goes on leaves the command in progress, in the next phase. -/
theorem CommandInProgress.advance (h : CommandInProgress s i) (hf : i.format = .h) (hfin : s.phase ≠ .final)
    {n : Nat} (hn : n = phaseBytes i s.regs.captured.len.toNat s.phase) {r : Regs}
    (w : PhaseWrites i s.regs s.phase n r) : CommandInProgress (s.advance i r) i where
  legal := by simpa [w.captured] using h.legal
  range := by simpa [w.captured] using h.range
  cursor := by
    simpa [w.captured, w.pos_toNat hn hf h.cursor] using cursorOk_next hf h.cursor hfin
  guard := fun _ => w.guard h.guard

/-- A phase step of a command in progress emits a response, or, of a hash command, reads the phase's bytes and
advances. -/
theorem CommandInProgress.phaseStep_cases (h : CommandInProgress s i) :
    (∃ pairs p r, phaseStep Config.build s = .next ((s.logReads pairs).emit p r)) ∨
    (i.format = .h ∧ s.phase ≠ .final ∧ ∃ pairs r,
      pairs.length = phaseBytes i s.regs.captured.len.toNat s.phase ∧
      PhaseWrites i s.regs s.phase pairs.length r ∧
      phaseStep Config.build s = .next ((s.logReads pairs).advance i r)) := by
  by_cases hf : i.format = .h
  · rw [phaseStep_hash _ h.legal hf]
    by_cases hfin : s.phase = .final
    · obtain ⟨p, hp⟩ := hashWork_final (r := s.regs) hf
      exact .inl ⟨[], p, _, by rw [hfin, hp, State.logReads_nil]; rfl⟩
    · obtain ⟨n, write, hw⟩ := hashWork_of_cursorOk (r := s.regs) hf h.cursor hfin
      obtain ⟨hn, hwrites⟩ := hashWork_writes hw
      rw [hw, State.perform]
      rcases readPhase_cases s i n write with ⟨x, -, e⟩ | ⟨hr, e⟩
      · exact .inl ⟨_, _, _, by rw [e]; rfl⟩
      · have hlen := readBytes_length n hr
        exact .inr ⟨hf, hfin, _, _, hlen.trans hn, hlen.symm ▸ hwrites _, by rw [e]⟩
  · obtain ⟨answer, he⟩ := exec_primitive hf
    rw [phaseStep_primitive h.legal hf, if_pos (h.compute hf), he]
    exact .inl ⟨[], _, _, by rw [State.logReads_nil]; rfl⟩

/-- A command that acceptance lets in is in progress, in its first phase. -/
theorem CommandInProgress.of_accept {q : Request} (hd : decode q.cmd = .ok i)
    (hw : i.format = .h → addrWraps q = false) :
    CommandInProgress { s.capture q with phase := firstPhase i } i := by
  refine ⟨hd, hw, by cases i <;> trivial, fun hp => ?_⟩
  cases i with
  | shake32 => exact absurd rfl hp
  | shake64 dual => exact absurd rfl hp
  | _ => trivial

end

/-! ## The invariant -/

/-- With the hasher idle, the invariant is that of memory. -/
theorem MachineInv.of_idle {s : State} (hm : s.mem.wf = true) (hp : s.phase = .idle) : MachineInv s :=
  ⟨hm, fun h => absurd hp h, fun h => absurd hp h, fun h => absurd hp h⟩

/-- The invariant says nothing of the request channel, the moves to come and the model's records; a response may
go, and what is kept of earlier answers must be of the message. -/
theorem MachineInv.congr {s t : State} (h : MachineInv s) (hm : t.mem.wf = true) (hp : t.phase = s.phase)
    (hr : t.regs = s.regs) (hresp : t.response = s.response ∨ t.response = none)
    (hh : s.phase ≠ .idle → ∀ x ∈ t.held, inMessage s.regs.captured x.1 = true) : MachineInv t where
  memory := hm
  noResponse hb := hresp.elim (fun e => e.trans (h.noResponse (hp ▸ hb))) id
  command hb := (h.command (hp ▸ hb)).imp fun _ c => c.congr hr hp
  held hb := hr ▸ hh (hp ▸ hb)

theorem MachineInv.withTurns {s : State} (h : MachineInv s) (rest : List Turn) :
    MachineInv { s with turns := rest } :=
  h.congr h.memory rfl rfl (.inl rfl) h.held

/-- What is kept when an answer changes in flight is of an address of the message. -/
theorem MachineInv.hold_held {s : State} (h : MachineInv s) (a : Word64) (hb : s.phase ≠ .idle) :
    ∀ x ∈ (s.hold a).held, inMessage s.regs.captured x.1 = true := by
  rw [State.hold_held]
  split
  case isFalse => exact h.held hb
  case isTrue hin =>
    obtain ⟨i, c⟩ := h.command hb
    have ha : inMessage s.regs.captured a = true := by
      simp only [State.inFlight, c.legal, Bool.and_eq_true] at hin
      exact hin.2.2
    intro x hx
    rcases List.mem_cons.1 hx with rfl | hx
    · exact ha
    · exact h.held hb x hx

/-- Settles O54. -/
theorem invAtReset : Obligations.InvAtReset := MachineInv.of_idle Memory.reset_wf rfl

theorem MachineInv.accept {s : State} (h : MachineInv s) (hr : s.response = none) (q : Request) :
    MachineInv (s.accept q) := by
  rcases accept_cases s q with ⟨-, e⟩ | ⟨i, -, -, -, e⟩ | ⟨i, hd, hw, e⟩
  · exact e ▸ .of_idle h.memory rfl
  · exact e ▸ .of_idle h.memory rfl
  · exact e ▸ ⟨h.memory, fun _ => hr, fun _ => ⟨i, .of_accept hd hw⟩, fun _ _ hx => nomatch hx⟩

/-- A phase step keeps the invariant. -/
theorem MachineInv.phaseStep {s t : State} (h : MachineInv s) (hb : s.phase ≠ .idle)
    (ht : phaseStep Config.build s = .next t) : MachineInv t := by
  obtain ⟨i, c⟩ := h.command hb
  rcases c.phaseStep_cases with ⟨pairs, p, r, e⟩ | ⟨hf, hfin, pairs, r, hn, w, e⟩ <;> rw [e] at ht <;>
    injection ht with ht <;> subst ht
  · exact .of_idle h.memory rfl
  · exact ⟨h.memory, fun _ => h.noResponse hb,
      fun _ => ⟨i, (c.advance hf hfin hn w).congr rfl rfl⟩,
      fun _ => by simpa [w.captured] using h.held hb⟩

/-- Every move of the hasher keeps the invariant. -/
theorem MachineInv.hasherMove {s t : State} (h : MachineInv s) {fine : Bool}
    (ht : hasherMove fine s = .next t) : MachineInv t := by
  rcases hasherMove_cases fine s with ⟨hb, e⟩ | ⟨-, hr, q, -, e⟩ | ⟨-, -, e⟩ <;> rw [e] at ht
  · exact h.phaseStep hb ht
  · cases fine with
    | true =>
      injection ht with ht
      exact ht ▸ h.accept hr q
    | false =>
      obtain ⟨pairs, p, r, rfl⟩ := runCommand_emits ht
      exact .of_idle h.memory rfl
  · injection ht with ht
    exact ht ▸ h

/-- Settles O55: the hasher's moves by the phases, the host's by what they leave of the hasher. -/
theorem stepKeepsInv : Obligations.StepKeepsInv := by
  intro s t h ht
  rcases step_cases ht with ⟨fine, rest, -, hm⟩ | ⟨q, rest, -, -, rfl⟩ | ⟨p, rest, -, -, rfl⟩ | ⟨rest, -, rfl⟩ |
    ⟨a, b, rest, -, rfl⟩ | ⟨a, rest, -, rfl⟩
  · exact (h.withTurns rest).hasherMove hm
  · exact h.congr h.memory rfl rfl (.inl rfl) h.held
  · exact h.congr h.memory rfl rfl (.inr rfl) h.held
  · exact .of_idle h.memory rfl
  · have h := h.withTurns rest
    exact h.congr (Memory.write_wf h.memory a b) (by simp) (by simp) (.inl (by simp)) (h.hold_held a)
  · have h := h.withTurns rest
    exact h.congr (Memory.erase_wf h.memory a) (by simp) (by simp) (.inl (by simp)) (h.hold_held a)

/-- From the invariant the hasher's move never stops the model. -/
theorem MachineInv.hasherMove_next {s : State} (h : MachineInv s) (fine : Bool) :
    ∃ t, Machine.hasherMove fine s = .next t := by
  rcases hasherMove_cases fine s with ⟨hb, e⟩ | ⟨-, -, q, -, e⟩ | ⟨-, -, e⟩ <;> rw [e]
  · obtain ⟨i, c⟩ := h.command hb
    rcases c.phaseStep_cases with ⟨_, _, _, e⟩ | ⟨-, -, _, _, -, -, e⟩ <;> exact ⟨_, e⟩
  · cases fine with
    | true => exact ⟨_, rfl⟩
    | false => exact runCommand_next s q
  · exact ⟨s, rfl⟩

/-- Settles O56. -/
theorem invStatesNeverFault : Obligations.InvStatesNeverFault := by
  intro s f h hs
  rcases step_hasherMove_or_next s with ⟨fine, rest, e⟩ | ⟨t, e⟩
  · obtain ⟨t, ht⟩ := (h.withTurns rest).hasherMove_next fine
    cases (hs.symm.trans e).trans ht
  · cases hs.symm.trans e

/-! ## A busy step -/

/-- A phase step, from any state, emits a response, or advances with the same request captured. -/
theorem phaseStep_cases {s t : State} (h : phaseStep Config.build s = .next t) :
    (∃ pairs p r, t = (s.logReads pairs).emit p r) ∨
    (∃ i pairs r, r.captured = s.regs.captured ∧ t = (s.logReads pairs).advance i r) := by
  cases hd : decode s.regs.captured.cmd with
  | error e => simp [phaseStep, hd] at h
  | ok i =>
    by_cases hf : i.format = .h
    · rw [phaseStep_hash _ hd hf] at h
      cases hw : hashWork Config.build i s.regs s.phase with
      | absent => rw [hw] at h; cases h
      | answer p =>
        rw [hw] at h
        cases h
        exact .inl ⟨[], p, _, by rw [State.logReads_nil]; rfl⟩
      | read n write =>
        rw [hw] at h
        cases h
        rcases readPhase_cases s i n write with ⟨x, -, e⟩ | ⟨-, e⟩ <;> rw [e]
        · exact .inl ⟨_, _, _, rfl⟩
        · exact .inr ⟨i, _, _, ((hashWork_writes hw).2 _).captured, rfl⟩
    · rw [phaseStep_primitive hd hf] at h
      split at h
      · exact .inl (exec_emits h)
      · cases h

/-- The hasher's move, when it is busy, is a phase step. -/
theorem hasherMove_busy {s : State} (hb : s.phase ≠ .idle) (fine : Bool) :
    hasherMove fine s = phaseStep Config.build s := by
  simp [hasherMove, hb]

/-- Settles O12: a phase step leaves the request channel, and the captured request until the command ends; the
host presents on an empty channel only. -/
theorem busyHoldsRequests : Obligations.BusyHoldsRequests := by
  intro s t hb hreset ht
  rcases step_cases ht with ⟨fine, rest, -, hm⟩ | ⟨q, rest, -, hq, rfl⟩ | ⟨p, rest, -, -, rfl⟩ | ⟨rest, e, -⟩ |
    ⟨a, b, rest, -, rfl⟩ | ⟨a, rest, -, rfl⟩
  · rw [hasherMove_busy (s := { s with turns := rest }) hb] at hm
    rcases phaseStep_cases hm with ⟨pairs, p, r, rfl⟩ | ⟨i, pairs, r, hc, rfl⟩
    · exact ⟨fun _ => rfl, fun hi => absurd rfl hi⟩
    · exact ⟨fun _ => rfl, fun _ => hc⟩
  · exact ⟨fun h => absurd hq h, fun _ => rfl⟩
  · exact ⟨fun _ => rfl, fun _ => rfl⟩
  · exact absurd e (hreset rest)
  · simp
  · simp

/-- Settles O57: of the moves that leave a hash command in progress, only a phase that reads moves the cursor. -/
theorem cursorGrowsByBytesRead : Obligations.CursorGrowsByBytesRead := by
  intro s t i h hb hi hd hf hreset ht htb
  obtain ⟨j, c⟩ := h.command hb
  obtain rfl : i = j := Except.ok.inj (hd.symm.trans c.legal)
  have hfits := cursorOk_fits hf c.cursor hi
  have stays : s.regs.pos.toNat + s.reads.length = s.regs.pos.toNat + s.reads.length ∧
      s.regs.pos.toNat ≤ s.regs.pos.toNat ∧ s.regs.pos.toNat ≤ s.regs.captured.len.toNat :=
    ⟨rfl, le_rfl, by omega⟩
  rcases step_cases ht with ⟨fine, rest, -, hm⟩ | ⟨q, rest, -, hq, rfl⟩ | ⟨p, rest, -, -, rfl⟩ | ⟨rest, e, -⟩ |
    ⟨a, b, rest, -, rfl⟩ | ⟨a, rest, -, rfl⟩
  · rw [hasherMove_busy (s := { s with turns := rest }) hb] at hm
    have c' : CommandInProgress { s with turns := rest } i := c.congr rfl rfl
    rcases c'.phaseStep_cases with ⟨pairs, p, r, e⟩ | ⟨-, hfin, pairs, r, hn, w, e⟩ <;> rw [e] at hm <;>
      injection hm with hm <;> subst hm
    · exact absurd rfl htb
    · have hpos := w.pos_toNat hn hf c'.cursor
      rw [cursorAfter_of_ne_init hi] at hpos
      simp only [State.advance_regs, State.advance_reads, State.logReads_reads, List.length_append, hpos, hn]
      omega
  · exact stays
  · exact stays
  · exact absurd e (hreset rest)
  · simpa using stays
  · simpa using stays

end Sys2Proof.Machine
end

section
/-! PROOFS. The rest of SHAKE32 and SHAKE64 from any phase: the lanes after all the phases still to come, as one
function of the bytes still to be read, which running one phase first does not change (10_state.md R24, R25;
41_shake32.md R99; 43_shake64.md R140). -/

namespace Sys2Proof.Machine

section
variable {σ : Type}

/-- `f` on `n` chunks of `size` bytes, from the front. -/
def chunks (size : Nat) (f : σ → List Byte → σ) : Nat → σ → List Byte → σ
  | 0, s, _ => s
  | n + 1, s, bs => chunks size f n (f s (bs.take size)) (bs.drop size)

theorem chunks_succ_append {size : Nat} {bs : List Byte} (h : bs.length = size) (f : σ → List Byte → σ) (n : Nat)
    (s : σ) (later : List Byte) : chunks size f (n + 1) s (bs ++ later) = chunks size f n (f s bs) later := by
  rw [chunks, List.take_left' h, List.drop_left' h]

theorem drop_mul_succ_append {size : Nat} {bs : List Byte} (h : bs.length = size) (n : Nat) (later : List Byte) :
    (bs ++ later).drop (size * (n + 1)) = later.drop (size * n) := by
  rw [Nat.mul_succ, Nat.add_comm, ← List.drop_drop, List.drop_left' h]

namespace ShakeOps

variable (o : ShakeOps σ) (len p : Nat)

/-- The lanes after BYTES, if the length has it. -/
def fromBytes (s : σ) (bs : List Byte) : σ := if nb o.word len ≠ 0 then o.onBytes s bs else s

/-- The lanes after the words left and BYTES. -/
def fromWords (s : σ) (bs : List Byte) : σ :=
  o.fromBytes len (chunks o.word o.onWord ((len - p) / o.word) s bs) (bs.drop (o.word * ((len - p) / o.word)))

/-- The lanes after LENFOLD, CONDENSE if the length has it, and the tail. -/
def fromLenfold (s : σ) (bs : List Byte) : σ :=
  o.fromWords len p (if o.block ≤ len then o.condense (o.lenfold s) else o.lenfold s) bs

/-- The lanes after the blocks left and all that follows. -/
def fromBulk (s : σ) (bs : List Byte) : σ :=
  o.fromLenfold len (p + o.block * ((len - p) / o.block))
    (chunks o.block o.onBlock ((len - p) / o.block) s bs) (bs.drop (o.block * ((len - p) / o.block)))

/-- The lanes after a phase after INIT and all that follow it. -/
def lanesFrom : Phase → σ → List Byte → σ
  | .bulk, s, bs => o.fromBulk len p s bs
  | .lenfold, s, bs => o.fromLenfold len p s bs
  | .condense, s, bs => o.fromWords len p (o.condense s) bs
  | .words, s, bs => o.fromWords len p s bs
  | .bytes, s, bs => o.onBytes s bs
  | .idle, s, _ | .init, s, _ | .dual, s, _ | .final, s, _ | .compute, s, _ => s

variable {o len p} {dual : Bool}

theorem lanesFrom_dualOrFinal (s : σ) (bs : List Byte) : o.lanesFrom len p (dualOrFinal dual) s bs = s := by
  cases dual <;> rfl

theorem lanesFrom_bytesOrLater (s : σ) (bs : List Byte) :
    o.lanesFrom len p (bytesOrLater o.word dual len) s bs = o.fromBytes len s bs := by
  unfold bytesOrLater fromBytes nb
  split
  case isTrue => rfl
  case isFalse => exact lanesFrom_dualOrFinal s bs

theorem lanesFrom_wordsOrLater (s : σ) (bs : List Byte) :
    o.lanesFrom len p (wordsOrLater o.word dual len p) s bs = o.fromWords len p s bs := by
  unfold wordsOrLater
  split
  case isTrue => rfl
  case isFalse h =>
    have hk : (len - p) / o.word = 0 := Nat.div_eq_zero_iff.2 (by omega)
    rw [lanesFrom_bytesOrLater, fromWords, hk]
    rfl

theorem lanesFrom_bulkOrLater (s : σ) (bs : List Byte) (hp : p ≤ len) :
    o.lanesFrom len p (bulkOrLater o.block len p) s bs = o.fromBulk len p s bs := by
  unfold bulkOrLater
  split
  case isTrue => rfl
  case isFalse h =>
    rw [fromBulk, Nat.div_eq_of_lt (by omega)]
    rfl

theorem fromBulk_append (hb : 0 < o.block) (hle : p + o.block ≤ len) {bs : List Byte}
    (hl : bs.length = o.block) (s : σ) (later : List Byte) :
    o.fromBulk len p s (bs ++ later) = o.fromBulk len (p + o.block) (o.onBlock s bs) later := by
  rw [fromBulk, sub_div_eq_succ hb hle, chunks_succ_append hl, drop_mul_succ_append hl, fromBulk,
    Nat.mul_succ, Nat.add_comm (o.block * _), Nat.add_assoc]

theorem fromWords_append (hw : 0 < o.word) (hle : p + o.word ≤ len) {bs : List Byte}
    (hl : bs.length = o.word) (s : σ) (later : List Byte) :
    o.fromWords len p s (bs ++ later) = o.fromWords len (p + o.word) (o.onWord s bs) later := by
  rw [fromWords, sub_div_eq_succ hw hle, chunks_succ_append hl, drop_mul_succ_append hl, fromWords]

/-- Running a phase and then the rest is running the rest from that phase. -/
theorem lanesFrom_next (hb : 0 < o.block) (hw : 0 < o.word) {ph : Phase}
    (h : shakeCursor o.block o.word dual len p ph) (hi : ph ≠ .init) {bs : List Byte}
    (hl : bs.length = shakeBytes o.block o.word len ph) (s : σ) (later : List Byte)
    (hlater : later.length = len - (p + shakeBytes o.block o.word len ph)) :
    o.lanesFrom len (p + shakeBytes o.block o.word len ph)
      (shakeNext o.block o.word dual len (p + shakeBytes o.block o.word len ph) ph) (o.run ph s bs) later =
        o.lanesFrom len p ph s (bs ++ later) := by
  cases ph with
  | idle => exact h.elim
  | init => exact absurd rfl hi
  | bulk => exact (lanesFrom_bulkOrLater _ _ h.2).trans (fromBulk_append hb h.2 hl s later).symm
  | lenfold =>
    obtain rfl := List.eq_nil_of_length_eq_zero hl
    simp only [shakeNext, shakeBytes, Nat.add_zero, List.nil_append]
    by_cases hblock : o.block ≤ len
    · simp only [lanesFrom, fromLenfold, if_pos hblock]; rfl
    · rw [if_neg hblock, lanesFrom_wordsOrLater]
      simp only [lanesFrom, fromLenfold, if_neg hblock]; rfl
  | condense =>
    obtain rfl := List.eq_nil_of_length_eq_zero hl
    exact lanesFrom_wordsOrLater _ _
  | words => exact (lanesFrom_wordsOrLater _ _).trans (fromWords_append hw h.2.2 hl s later).symm
  | bytes =>
    obtain ⟨rfl, -⟩ := h
    have hmod := Nat.mod_le len o.word
    obtain rfl : later = [] := List.eq_nil_of_length_eq_zero (by simp only [shakeBytes, nb] at hlater; omega)
    rw [List.append_nil]
    exact lanesFrom_dualOrFinal _ _
  | dual => rfl
  | final => rfl
  | compute => exact h.elim

end ShakeOps

end

/-! ## From the start of the message it is the whole hash -/

theorem blocks32_eq_chunks (c : Config) (gd : Word32) : ∀ (n : Nat) (s : Lanes32) (bs : List Byte),
    blocks32 c gd n s bs = chunks 16 (block32 c gd) n s bs
  | 0, _, _ => rfl
  | n + 1, _, _ => blocks32_eq_chunks c gd n _ _

theorem wordTails32_eq_chunks (c : Config) (gd : Word32) : ∀ (n : Nat) (s : Lanes32) (bs : List Byte),
    wordTails32 c gd n s bs = chunks 4 (wordTail32 c gd) n s bs
  | 0, _, _ => rfl
  | n + 1, _, _ => wordTails32_eq_chunks c gd n _ _

theorem blocks64_eq_chunks (c : Config) (gd : Word64) : ∀ (n : Nat) (s : Lanes64) (bs : List Byte),
    blocks64 c gd n s bs = chunks 96 (block64 c gd) n s bs
  | 0, _, _ => rfl
  | n + 1, _, _ => blocks64_eq_chunks c gd n _ _

theorem wordTails64_eq_chunks (c : Config) (gd : Word64) : ∀ (n : Nat) (s : Lanes64) (bs : List Byte),
    wordTails64 c gd n s bs = chunks 8 (tail64 c gd) n s bs
  | 0, _, _ => rfl
  | n + 1, _, _ => wordTails64_eq_chunks c gd n _ _

theorem shake32Digest_eq_lanesFrom (c : Config) (sd : Word32) (len : Word64) (msg : List Byte) :
    shake32Digest c sd len msg = final32 c ((shake32Ops c (guardTerm c sd) len).lanesFrom len.toNat 0
      (bulkOrLater 16 len.toNat 0) (init32 c sd (guardTerm c sd)) msg) := by
  rw [show bulkOrLater 16 len.toNat 0 =
      bulkOrLater (shake32Ops c (guardTerm c sd) len).block len.toNat 0 from rfl,
    ShakeOps.lanesFrom_bulkOrLater _ _ (Nat.zero_le _)]
  simp only [shake32Digest, blocks32_eq_chunks, wordTails32_eq_chunks, ShakeOps.fromBulk, ShakeOps.fromLenfold,
    ShakeOps.fromWords, ShakeOps.fromBytes, shake32Ops, nblk, nw, Nat.zero_add, Nat.sub_zero,
    ← Nat.mod_eq_sub_mul_div]
  rfl

theorem shake64Lanes_eq_lanesFrom (c : Config) (sd len : Word64) (msg : List Byte) :
    shake64Lanes c sd len msg = (shake64Ops c (guardTerm c sd) len).lanesFrom len.toNat 0
      (bulkOrLater 96 len.toNat 0) (init64 c sd (guardTerm c sd)) msg := by
  rw [show bulkOrLater 96 len.toNat 0 =
      bulkOrLater (shake64Ops c (guardTerm c sd) len).block len.toNat 0 from rfl,
    ShakeOps.lanesFrom_bulkOrLater _ _ (Nat.zero_le _)]
  simp only [shake64Lanes, blocks64_eq_chunks, wordTails64_eq_chunks, ShakeOps.fromBulk, ShakeOps.fromLenfold,
    ShakeOps.fromWords, ShakeOps.fromBytes, shake64Ops, nblk, nw, Nat.zero_add, Nat.sub_zero,
    ← Nat.mod_eq_sub_mul_div]
  rfl

end Sys2Proof.Machine
end

section
/-! PROOFS. The phase machine refines the atomic step (10_state.md R25, R30; 70_reset_and_hazards.md R190). The
rest of a hash command from any phase after INIT, done at once (`State.finish`), is what the atomic step does
from the start, and running one phase first does not change it; so the phases, of which ever fewer are left, end
in the atomic step's state. -/

namespace Sys2Proof.Machine

/-! ## The rest of a hash command, done at once -/

/-- The response of a hash command in a phase after INIT when the bytes still to be read are `bs`. A primitive
command has no such phase. -/
def restAnswer (c : Config) (i : Instr) (r : Regs) (ph : Phase) (bs : List Byte) : Response :=
  let q := r.captured
  match i with
  | .shake32 =>
    .good (zext64 (final32 c ((shake32Ops c r.gd32 q.len).lanesFrom q.len.toNat r.pos.toNat ph r.s32 bs)))
  | .shake64 dual =>
    let s := (shake64Ops c r.gd q.len).lanesFrom q.len.toNat r.pos.toNat ph r.s64 bs
    if ph = .final ∧ dual = true then .goodDual (final64 c s) r.d2 else answer64 c dual s
  | .stir => .good (zext64 (stirHash r.h bs))
  | .rotl32 | .combine32 | .mix32 | .scramble32 | .rotl64 | .mix64 | .scramble64 => .good 0

/-- The bytes of the message the cursor has not passed. -/
def State.unread (s : State) : Nat := s.regs.captured.len.toNat - s.regs.pos.toNat

/-- What reading all of them gives. -/
def State.readRest (s : State) : ReadResult :=
  readBytes s.sample (s.regs.captured.addr + s.regs.pos) s.unread

/-- The end of a hash command from what reading gives: the fault of the refused address, or the answer. -/
def State.endWith (s : State) (i : Instr) (r : ReadResult) (answer : List Byte → Response) : State :=
  match r.refused with
  | some x => (s.logReads r.pairs).raise i .msgAccessFault x
  | none => (s.logReads r.pairs).respond i (answer r.bytes)

/-- The rest of a hash command in a phase after INIT, as one step. -/
def State.finish (s : State) (i : Instr) : State :=
  s.endWith i s.readRest (restAnswer Config.build i s.regs s.phase)

theorem State.endWith_refused {s : State} {r : ReadResult} {x : Word64} (h : r.refused = some x) (i : Instr)
    (answer : List Byte → Response) : s.endWith i r answer = (s.logReads r.pairs).raise i .msgAccessFault x := by
  simp [State.endWith, h]

theorem State.endWith_read {s : State} {r : ReadResult} (h : r.refused = none) (i : Instr)
    (answer : List Byte → Response) : s.endWith i r answer = (s.logReads r.pairs).respond i (answer r.bytes) := by
  simp [State.endWith, h]

/-- The atomic step of a hash command whose range does not wrap. -/
theorem hashCommand_eq_endWith {i : Instr} {s : State} {answer : List Byte → Response}
    (hw : addrWraps s.regs.captured = false) :
    hashCommand i s answer = .next (s.endWith i (s.readMessage s.regs.captured) answer) := by
  rcases hashCommand_cases i s answer with ⟨hw', -⟩ | ⟨-, x, hr, e⟩ | ⟨-, hr, e⟩
  · cases hw.symm.trans hw'
  · exact e.trans (congrArg _ (State.endWith_refused hr i answer).symm)
  · exact e.trans (congrArg _ (State.endWith_read hr i answer).symm)

/-! ## One phase first leaves the rest as it was -/

section
variable {r : Regs} {ph : Phase} {n : Nat} {write : List Byte → Regs} {bs later : List Byte}

theorem shake32_restAnswer_next (c : Config) (h : shake32Work c r ph = .read n write) (hi : ph ≠ .init)
    (hc : shakeCursor 16 4 false r.captured.len.toNat r.pos.toNat ph)
    (hpos : (write bs).pos.toNat = r.pos.toNat + n) (hl : bs.length = n)
    (hlater : later.length = r.captured.len.toNat - (r.pos.toNat + n)) :
    restAnswer c .shake32 (write bs) (nextPhase .shake32 r.captured.len.toNat (r.pos.toNat + n) ph) later =
      restAnswer c .shake32 r ph (bs ++ later) := by
  cases ph
  case init => exact absurd rfl hi
  case bulk | lenfold | condense | words | bytes =>
    cases h
    have hlanes := ShakeOps.lanesFrom_next (o := shake32Ops c r.gd32 r.captured.len) (by decide : 0 < 16)
      (by decide : 0 < 4) hc hi hl r.s32 later hlater
    simp only [restAnswer, hpos]
    exact congrArg (fun s => Response.good (zext64 (final32 c s))) hlanes
  case idle | dual | final | compute => cases h

/-- With DUAL asked for, FINAL comes after DUAL only. -/
theorem nextPhase_shake64_not_final {dual : Bool} (len p : Nat) (h : ph ≠ .dual) :
    ¬ (nextPhase (.shake64 dual) len p ph = .final ∧ dual = true) := by
  rintro ⟨hfinal, rfl⟩
  revert hfinal
  have hwords : wordsOrLater 8 true len p ≠ .final := by
    unfold wordsOrLater bytesOrLater dualOrFinal
    split_ifs <;> simp_all
  have hbulk : bulkOrLater 96 len p ≠ .final := by
    unfold bulkOrLater
    split_ifs <;> decide
  cases ph with
  | init => exact hbulk
  | bulk => exact hbulk
  | lenfold =>
    by_cases hl : 96 ≤ len
    · simp [nextPhase, shakeNext, hl]
    · simpa [nextPhase, shakeNext, hl] using hwords
  | condense => exact hwords
  | words => exact hwords
  | dual => exact absurd rfl h
  | _ => simp [nextPhase, shakeNext, dualOrFinal]

theorem shake64_restAnswer_next (c : Config) {dual : Bool} (h : shake64Work c dual r ph = .read n write)
    (hi : ph ≠ .init) (hc : shakeCursor 96 8 dual r.captured.len.toNat r.pos.toNat ph)
    (hpos : (write bs).pos.toNat = r.pos.toNat + n) (hl : bs.length = n)
    (hlater : later.length = r.captured.len.toNat - (r.pos.toNat + n)) :
    restAnswer c (.shake64 dual) (write bs)
        (nextPhase (.shake64 dual) r.captured.len.toNat (r.pos.toNat + n) ph) later =
      restAnswer c (.shake64 dual) r ph (bs ++ later) := by
  cases ph
  case init => exact absurd rfl hi
  case bulk | lenfold | condense | words | bytes =>
    cases h
    have hlanes := ShakeOps.lanesFrom_next (o := shake64Ops c r.gd r.captured.len) (by decide : 0 < 96)
      (by decide : 0 < 8) hc hi hl r.s64 later hlater
    rw [restAnswer, if_neg (nextPhase_shake64_not_final _ _ (by decide)), restAnswer, if_neg (by simp)]
    simp only [hpos]
    exact congrArg (answer64 c dual) hlanes
  case dual =>
    cases dual <;> cases h
    rfl
  case idle | final | compute => cases h

theorem stir_restAnswer_next (c : Config) (h : stirWork r ph = .read n write) (hi : ph ≠ .init) (ph' : Phase) :
    restAnswer c .stir (write bs) ph' later = restAnswer c .stir r ph (bs ++ later) := by
  cases ph
  case init => exact absurd rfl hi
  case bytes => cases h; simp [restAnswer, stirHash]
  case idle | bulk | lenfold | condense | words | dual | final | compute => cases h

/-- A phase after INIT, and then the rest, answers as the rest from that phase does. -/
theorem restAnswer_next {i : Instr} (h : hashWork Config.build i r ph = .read n write) (hi : ph ≠ .init)
    (hc : cursorOk i r.captured.len.toNat r.pos.toNat ph)
    (hpos : (write bs).pos.toNat = r.pos.toNat + n) (hl : bs.length = n)
    (hlater : later.length = r.captured.len.toNat - (r.pos.toNat + n)) :
    restAnswer Config.build i (write bs) (nextPhase i r.captured.len.toNat (r.pos.toNat + n) ph) later =
      restAnswer Config.build i r ph (bs ++ later) := by
  cases i with
  | shake32 => exact shake32_restAnswer_next _ h hi hc hpos hl hlater
  | shake64 dual => exact shake64_restAnswer_next _ h hi hc hpos hl hlater
  | stir => exact stir_restAnswer_next _ h hi _
  | _ => cases h

/-- FINAL answers as the rest from FINAL does. -/
theorem restAnswer_final {i : Instr} {p : Response} (h : hashWork Config.build i r .final = .answer p) :
    restAnswer Config.build i r .final [] = p := by
  cases i with
  | shake32 => cases h; rfl
  | shake64 dual => cases dual <;> cases h <;> rfl
  | stir => cases h; rfl
  | _ => cases h

theorem low32_zext64 (v : Word32) : low32 (zext64 v) = v := by
  simp [low32, zext64]

/-- The atomic step of a hash command answers as the rest after INIT does. -/
theorem exec_eq_hashCommand_restAnswer {i : Instr} {s : State}
    (h : hashWork Config.build i s.regs .init = .read n write) :
    exec i s = hashCommand i s
      (restAnswer Config.build i (write []) (nextPhase i s.regs.captured.len.toNat 0 .init)) := by
  cases i with
  | shake32 =>
    cases h
    rw [exec_shake32]
    congr 1
    funext msg
    simp only [restAnswer, shake32Digest_eq_lanesFrom, Regs.gd32, low32_zext64]
    rfl
  | shake64 dual =>
    cases h
    rw [exec_shake64]
    congr 1
    funext msg
    rw [restAnswer, if_neg (nextPhase_shake64_not_final _ _ (by decide)), shake64Lanes_eq_lanesFrom]
    rfl
  | stir => cases h; rfl
  | _ => cases h

end

end Sys2Proof.Machine
end

section
/-! PROOFS. The simulation, one phase: what it leaves of the rest of the command (10_state.md R24, R25; 20_memory.md
R42; 60_exceptions.md R165). -/

namespace Sys2Proof.Machine

/-! ## The moves to come play no part -/

section
variable {s : State} {ts : List Turn}

theorem State.turns_self (h : s.turns = ts) : { s with turns := ts } = s := by
  rw [← h]

theorem State.readPhase_turns (i : Instr) (n : Nat) (write : List Byte → Regs) :
    ({ s with turns := ts }).readPhase i n write = { s.readPhase i n write with turns := ts } := by
  have hsample : ({ s with turns := ts }).sample = s.sample := rfl
  cases hr : (readBytes s.sample (s.regs.captured.addr + s.regs.pos) n).refused <;>
    simp only [State.readPhase, hsample, hr] <;> rfl

theorem State.accept_turns (q : Request) :
    ({ s with turns := ts }).accept q = { s.accept q with turns := ts } := by
  unfold State.accept
  dsimp only
  split
  · rfl
  · split <;> rfl

end

/-! ## An atomic step does not look at the phase -/

section
variable (s : State) (i : Instr) (ph : Phase)

theorem hashCommand_phase (answer : List Byte → Response) :
    hashCommand i { s with phase := ph } answer = hashCommand i s answer := by
  unfold hashCommand
  dsimp only
  split
  · rfl
  · split <;> rfl

theorem exec_phase : exec i { s with phase := ph } = exec i s := by
  by_cases hf : i.format = .h
  · cases i with
    | shake32 => rw [exec_shake32, exec_shake32]; exact hashCommand_phase ..
    | shake64 dual => rw [exec_shake64, exec_shake64]; exact hashCommand_phase ..
    | stir => rw [exec_stir, exec_stir]; exact hashCommand_phase ..
    | _ => cases hf
  · obtain ⟨answer, h⟩ := exec_primitive hf
    rw [h, h]
    rfl

end

/-! ## One phase -/

section
variable {s : State} {i : Instr} {r : Regs}

/-- After a phase, the end of the command is as from before it, with the phase's reads put in front. -/
theorem State.endWith_advance (hd : ∀ free, dropRegs i free r = dropRegs i free s.regs)
    {before : List (Word64 × Byte)} {rest : ReadResult} {answer answer' : List Byte → Response}
    (ha : rest.refused = none → answer' rest.bytes = answer (before.map Prod.snd ++ rest.bytes)) :
    ((s.logReads before).advance i r).endWith i rest answer' =
      s.endWith i ⟨before ++ rest.pairs, rest.refused⟩ answer := by
  cases hr : rest.refused with
  | some x =>
    rw [State.endWith_refused hr, State.endWith_refused rfl]
    simp [State.raise, State.emit, State.advance, State.logReads, hd]
  | none =>
    rw [State.endWith_read hr, State.endWith_read rfl, ha hr]
    simp [State.respond, State.emit, State.advance, State.logReads, hd, ReadResult.bytes]

variable (h : CommandInProgress s i) (hf : i.format = .h)
include h hf

/-- FINAL is the rest from FINAL. -/
theorem CommandInProgress.finish_final (hfin : s.phase = .final) :
    ∃ p, hashWork Config.build i s.regs s.phase = .answer p ∧ s.finish i = s.respond i p := by
  obtain ⟨p, hp⟩ := hashWork_final (r := s.regs) hf
  have hpos := cursorOk_final hf (hfin ▸ h.cursor)
  have hrest : s.readRest = ⟨[], none⟩ := by
    rw [State.readRest, State.unread, hpos, Nat.sub_self, readBytes_zero]
  refine ⟨p, hfin ▸ hp, ?_⟩
  rw [State.finish, hrest, State.endWith_read rfl, State.logReads_nil, hfin]
  exact congrArg _ (restAnswer_final hp)

/-- A phase after INIT that meets a refused byte ends as the rest from there does; one that reads its bytes leaves
the rest as it was. -/
theorem CommandInProgress.finish_readPhase (hi : s.phase ≠ .init) {n : Nat} {write : List Byte → Regs}
    (hw : hashWork Config.build i s.regs s.phase = .read n write) :
    s.readPhase i n write = s.finish i ∨
      ∃ pairs, s.readPhase i n write = (s.logReads pairs).advance i (write (pairs.map Prod.snd)) ∧
        (s.readPhase i n write).finish i = s.finish i := by
  obtain ⟨hn, hwrites⟩ := hashWork_writes hw
  have hle : n ≤ s.unread := by
    have := cursorOk_fits hf h.cursor hi
    rw [State.unread]
    omega
  have hrest : s.readRest = readBytes s.sample (s.regs.captured.addr + s.regs.pos) (n + (s.unread - n)) := by
    rw [Nat.add_sub_of_le hle, State.readRest]
  rw [readBytes_add] at hrest
  rcases readPhase_cases s i n write with ⟨x, hr, e⟩ | ⟨hr, e⟩ <;> rw [hr] at hrest
  · exact .inl (by rw [e, State.finish, hrest, State.endWith_refused rfl])
  · refine .inr ⟨_, e, ?_⟩
    have hlen := readBytes_length n hr
    generalize readBytes s.sample (s.regs.captured.addr + s.regs.pos) n = front at hrest hlen e
    have w := hwrites front.bytes
    have hpos := w.pos_toNat hn hf h.cursor
    rw [cursorAfter_of_ne_init hi, ← hn] at hpos
    have hread : (s.readPhase i n write).readRest = readBytes s.sample
        (s.regs.captured.addr + s.regs.pos + BitVec.ofNat 64 n) (s.unread - n) := by
      rw [e, State.readRest, State.unread, State.unread, Nat.sub_sub]
      simp only [State.advance_regs, w.captured, hpos]
      rw [w.pos, if_neg hi, Regs.cursor, BitVec.add_assoc]
      rfl
    rw [State.finish, hread, State.finish, hrest, e]
    refine State.endWith_advance w.dropped fun hnone => ?_
    have hlater := readBytes_length _ hnone
    simp only [State.advance_regs, State.advance_phase, State.logReads_phase, w.captured, hpos]
    refine restAnswer_next hw hi h.cursor hpos (by simpa [ReadResult.bytes] using hlen) ?_
    simpa [ReadResult.bytes, State.unread, Nat.sub_sub] using hlater

end

end Sys2Proof.Machine
end

section
/-! PROOFS. The simulation, a whole command: acceptance, INIT, and ever fewer phases end in the state of the one
atomic step, within the bound of 70_reset_and_hazards.md R190. -/

namespace Sys2Proof.Machine

/-! ## A step of the simulation -/

/-- At most so many phase steps of the command are left. -/
def State.stepsLeft (s : State) (i : Instr) : Nat :=
  Machine.stepsLeft i s.regs.captured.len.toNat s.regs.pos.toNat s.phase

section
variable {s : State} {i : Instr}

/-- The command goes on in `t`, past INIT, with fewer steps left than `n`. -/
structure GoesOn (t : State) (i : Instr) (n : Nat) : Prop where
  inProgress : CommandInProgress t i
  pastInit : t.phase ≠ .init
  fewer : t.stepsLeft i < n

theorem CommandInProgress.goesOn (h : CommandInProgress s i) (hf : i.format = .h) (hfin : s.phase ≠ .final)
    {n : Nat} (hn : n = phaseBytes i s.regs.captured.len.toNat s.phase) {r : Regs}
    (w : PhaseWrites i s.regs s.phase n r) (pairs : List (Word64 × Byte)) :
    GoesOn ((s.logReads pairs).advance i r) i (s.stepsLeft i) where
  inProgress := (h.advance hf hfin hn w).congr rfl rfl
  pastInit := nextPhase_ne_init _ _ _ _
  fewer := by
    simpa [State.stepsLeft, w.captured, w.pos_toNat hn hf h.cursor] using stepsLeft_next hf h.cursor hfin

/-- The hash command's phase step, whatever moves are to come. -/
theorem phaseStep_read (hd : decode s.regs.captured.cmd = .ok i) (hf : i.format = .h) {n : Nat}
    {write : List Byte → Regs} (hw : hashWork Config.build i s.regs s.phase = .read n write) (ts : List Turn) :
    phaseStep Config.build { s with turns := ts } = .next { s.readPhase i n write with turns := ts } := by
  rw [phaseStep_hash Config.build (s := { s with turns := ts }) hd hf, hw, State.perform, State.readPhase_turns]

/-- A phase step after INIT ends as the rest of the command does, or goes on and leaves the rest as it was. -/
theorem CommandInProgress.finish_step (h : CommandInProgress s i) (hf : i.format = .h) (hi : s.phase ≠ .init) :
    ∃ t, (∀ ts, phaseStep Config.build { s with turns := ts } = .next { t with turns := ts }) ∧
      (t = s.finish i ∨ GoesOn t i (s.stepsLeft i) ∧ t.finish i = s.finish i) := by
  by_cases hfin : s.phase = .final
  · obtain ⟨p, hw, hp⟩ := h.finish_final hf hfin
    refine ⟨_, fun ts => ?_, .inl rfl⟩
    rw [phaseStep_hash Config.build (s := { s with turns := ts }) h.legal hf, hw, hp]
    rfl
  · obtain ⟨n, write, hw⟩ := hashWork_of_cursorOk (r := s.regs) hf h.cursor hfin
    obtain ⟨hn, hwrites⟩ := hashWork_writes hw
    refine ⟨_, phaseStep_read h.legal hf hw, ?_⟩
    rcases h.finish_readPhase hf hi hw with e | ⟨pairs, e, hrest⟩
    · exact .inl e
    · exact .inr ⟨e ▸ h.goesOn hf hfin hn (hwrites _) pairs, hrest⟩

/-- INIT leaves the rest that is the whole atomic step. -/
theorem CommandInProgress.finish_init (h : CommandInProgress s i) (hf : i.format = .h) (hp : s.phase = .init)
    (hheld : s.held = []) :
    ∃ t, (∀ ts, phaseStep Config.build { s with turns := ts } = .next { t with turns := ts }) ∧
      GoesOn t i (s.stepsLeft i) ∧ exec i s = .next (t.finish i) := by
  have hfin : s.phase ≠ .final := by simp [hp]
  obtain ⟨n, write, hw⟩ := hashWork_of_cursorOk (r := s.regs) hf h.cursor hfin
  obtain ⟨hn, hwrites⟩ := hashWork_writes hw
  have w := hwrites []
  obtain rfl : n = 0 := by rw [hn, hp]; cases i <;> rfl
  have ht : s.readPhase i 0 write = (s.logReads []).advance i (write []) := by
    rw [State.readPhase_zero, State.logReads_nil]
  refine ⟨_, phaseStep_read h.legal hf hw, ht ▸ h.goesOn hf hfin hn w [], ?_⟩
  have hpos : (write []).pos = 0 := by rw [w.pos, if_pos hp]
  have hsample : s.sample = s.mem.read := funext (State.sample_of_held_nil hheld)
  have hread : (s.readPhase i 0 write).readRest = s.readMessage s.regs.captured := by
    rw [ht, State.readRest, State.unread, State.readMessage, ← hsample]
    simp only [State.advance_regs, w.captured, hpos, add_zero]
    rfl
  rw [exec_eq_hashCommand_restAnswer (hp ▸ hw), hashCommand_eq_endWith (h.range hf), State.finish, hread, ht]
  refine congrArg _ (State.endWith_advance (before := []) (rest := s.readMessage s.regs.captured) w.dropped
    fun _ => ?_).symm
  simp only [State.advance_regs, State.advance_phase, State.logReads_phase, w.captured, hpos, hp]
  rfl

/-- A primitive command's one phase is the whole atomic step. -/
theorem CommandInProgress.finish_compute (h : CommandInProgress s i) (hf : i.format ≠ .h) :
    ∃ t, (∀ ts, phaseStep Config.build { s with turns := ts } = .next { t with turns := ts }) ∧
      exec i s = .next t := by
  obtain ⟨answer, hexec⟩ := exec_primitive hf
  refine ⟨_, fun ts => ?_, hexec s⟩
  rw [phaseStep_primitive (s := { s with turns := ts }) h.legal hf, if_pos (h.compute hf), hexec]
  rfl

/-! ## The run -/

theorem run_succ {s t : State} (h : step s = .next t) (k : Nat) :
    Sys2Proof.core.run (k + 1) s = Sys2Proof.core.run k t := by
  have hcore : Sys2Proof.core.step s = .next t := h
  simp only [Host.Core.run, hcore]

/-- With only phase turns listed, a busy hasher runs a phase. -/
theorem step_phases_busy (hb : s.phase ≠ .idle) (k : Nat) :
    step { s with turns := List.replicate (k + 1) .phase } =
      phaseStep Config.build { s with turns := List.replicate k .phase } :=
  hasherMove_busy (s := { s with turns := List.replicate k .phase }) hb true

/-- and an idle one accepts. -/
theorem step_phases_ready {q : Request} (h : Ready s q) (k : Nat) :
    step { s with turns := List.replicate (k + 1) .phase } =
      .next { s.accept q with turns := List.replicate k .phase } := by
  rw [← State.accept_turns]
  simp [step, List.replicate_succ, turnMove, hasherMove, h.idle, h.response, h.request]

/-- `s` run for `k` phase turns ends in `t`, with no move left. -/
def PhasesEnd (s : State) (k : Nat) (t : State) : Prop :=
  Sys2Proof.core.run k { s with turns := List.replicate k .phase } = .next { t with turns := [] }

theorem PhasesEnd.zero (s : State) : PhasesEnd s 0 s := rfl

theorem PhasesEnd.busy {t u : State} {k : Nat} (hb : s.phase ≠ .idle)
    (hs : ∀ ts, phaseStep Config.build { s with turns := ts } = .next { t with turns := ts })
    (h : PhasesEnd t k u) : PhasesEnd s (k + 1) u :=
  (run_succ ((step_phases_busy hb k).trans (hs _)) k).trans h

theorem PhasesEnd.ready {q : Request} {u : State} {k : Nat} (hr : Ready s q) (h : PhasesEnd (s.accept q) k u) :
    PhasesEnd s (k + 1) u :=
  (run_succ (step_phases_ready hr k) k).trans h

theorem CommandInProgress.busy (h : CommandInProgress s i) : s.phase ≠ .idle := by
  intro hp
  have hc := hp ▸ h.cursor
  cases i with
  | shake32 => exact hc
  | shake64 dual => exact hc
  | stir => exact hc
  | _ => cases hc

theorem CommandInProgress.stepsLeft_pos (h : CommandInProgress s i) (hf : i.format = .h) : 0 < s.stepsLeft i := by
  by_cases hfin : s.phase = .final
  · rw [State.stepsLeft, hfin]
    cases i with
    | shake32 => exact Nat.one_pos
    | shake64 dual => exact Nat.one_pos
    | stir => exact Nat.succ_pos _
    | _ => cases hf
  · exact (Nat.zero_le _).trans_lt (stepsLeft_next hf h.cursor hfin)

/-- A hash command past INIT ends, phase by phase, as its rest does. -/
theorem CommandInProgress.phasesEnd (hf : i.format = .h) : ∀ (n : Nat) {s : State}, CommandInProgress s i →
    s.phase ≠ .init → s.stepsLeft i ≤ n → ∃ k, k ≤ n ∧ PhasesEnd s k (s.finish i)
  | 0, s, h, _, hn => absurd (h.stepsLeft_pos hf) (by omega)
  | n + 1, s, h, hi, hn => by
    obtain ⟨t, hs, rfl | ⟨⟨ht, hti, hlt⟩, hrest⟩⟩ := h.finish_step hf hi
    · exact ⟨1, by omega, .busy h.busy hs (.zero _)⟩
    · obtain ⟨k, hk, hend⟩ := CommandInProgress.phasesEnd hf n ht hti (by omega)
      exact ⟨k + 1, by omega, .busy h.busy hs (hrest ▸ hend)⟩

end

/-- The acceptance and the phase steps of a hash command are within R190's bound. -/
theorem stepsLeft_init_lt_moveBound {q : Request} {i : Instr} (hd : decode q.cmd = .ok i) (hf : i.format = .h)
    (p : Nat) : stepsLeft i q.len.toNat p .init < moveBound q := by
  cases i with
  | shake32 => simp only [moveBound, hd, stepsLeft, shakeStepsLeft]; omega
  | shake64 dual => simp only [moveBound, hd, stepsLeft, shakeStepsLeft]; omega
  | stir => simp only [moveBound, hd, stepsLeft, if_true]; omega
  | _ => cases hf

/-- Every legal command has a phase step after its acceptance. -/
theorem one_lt_moveBound {q : Request} {i : Instr} (hd : decode q.cmd = .ok i) : 1 < moveBound q := by
  cases i <;> simp only [moveBound, hd] <;> omega

theorem moveBound_pos (q : Request) : 1 ≤ moveBound q := by
  unfold moveBound
  split <;> omega

/-- A hash command let in ends, from acceptance on, as the atomic step does. -/
theorem phasesEnd_of_hash {s : State} {q : Request} {i : Instr} (hd : decode q.cmd = .ok i) (hf : i.format = .h)
    (hw : addrWraps q = false) (e : s.accept q = { s.capture q with phase := firstPhase i }) :
    ∃ k t, k < moveBound q ∧ runCommand s q = .next t ∧ PhasesEnd (s.accept q) k t := by
  have hfirst : firstPhase i = .init := if_pos hf
  have h : CommandInProgress { s.capture q with phase := firstPhase i } i := .of_accept hd fun _ => hw
  obtain ⟨t, hs, ⟨ht, hti, hlt⟩, hexec⟩ := h.finish_init hf hfirst rfl
  rw [exec_phase] at hexec
  obtain ⟨k, hk, hend⟩ := CommandInProgress.phasesEnd hf _ ht hti le_rfl
  have hbound : State.stepsLeft { s.capture q with phase := firstPhase i } i < moveBound q := by
    rw [State.stepsLeft, hfirst]
    exact stepsLeft_init_lt_moveBound hd hf _
  refine ⟨k + 1, _, by omega, (runCommand_of_decode s hd).trans hexec, ?_⟩
  rw [e]
  exact .busy h.busy hs hend

/-- So does a primitive command. -/
theorem phasesEnd_of_primitive {s : State} {q : Request} {i : Instr} (hd : decode q.cmd = .ok i)
    (hf : i.format ≠ .h) (e : s.accept q = { s.capture q with phase := firstPhase i }) :
    ∃ k t, k < moveBound q ∧ runCommand s q = .next t ∧ PhasesEnd (s.accept q) k t := by
  have h : CommandInProgress { s.capture q with phase := firstPhase i } i :=
    .of_accept hd fun hfmt => absurd hfmt hf
  obtain ⟨t, hs, hexec⟩ := h.finish_compute hf
  rw [exec_phase] at hexec
  refine ⟨1, t, ?_, (runCommand_of_decode s hd).trans hexec, ?_⟩
  · exact one_lt_moveBound hd
  · rw [e]
    exact .busy h.busy hs (.zero t)

/-- Every request ends, from acceptance on, as the atomic step does. -/
theorem phasesEnd_accept (s : State) (q : Request) :
    ∃ k t, k < moveBound q ∧ runCommand s q = .next t ∧ PhasesEnd (s.accept q) k t := by
  have hpos := moveBound_pos q
  rcases accept_cases s q with ⟨⟨x, hd⟩, e⟩ | ⟨i, hd, hf, hw, e⟩ | ⟨i, hd, hw, e⟩
  · exact ⟨0, _, hpos, by rw [runCommand, hd, e], .zero _⟩
  · refine ⟨0, _, hpos, ?_, .zero _⟩
    rw [runCommand_of_decode s hd, e]
    cases i with
    | shake32 => rw [exec_shake32]; simp [hashCommand, hw]
    | shake64 dual => rw [exec_shake64]; simp [hashCommand, hw]
    | stir => rw [exec_stir]; simp [hashCommand, hw]
    | _ => cases hf
  · by_cases hf : i.format = .h
    · exact phasesEnd_of_hash hd hf (hw hf) e
    · exact phasesEnd_of_primitive hd hf e

/-- The atomic step leaves the moves to come. -/
theorem runCommand_turns {s t : State} {q : Request} (h : runCommand s q = .next t) : t.turns = s.turns := by
  obtain ⟨pairs, p, r, rfl⟩ := runCommand_emits h
  rfl

/-- Settles O60: acceptance, and then the simulation. -/
theorem phaseMachineRefinesAtomicStep : Obligations.PhaseMachineRefinesAtomicStep := by
  intro s q hr
  obtain ⟨k, t, hk, ht, hend⟩ := phasesEnd_accept s q
  refine ⟨k + 1, t, by omega, hk, (step_of_ready hr).trans ht, ?_⟩
  have hrun := hend.ready hr
  rwa [PhasesEnd, State.turns_self ((runCommand_turns ht).trans hr.turns)] at hrun

end Sys2Proof.Machine
end

section
/-! PROOFS. Message memory (20_memory.md): byte order, who changes it, what an address answered since acceptance,
and which addresses a step reads. -/

namespace Sys2Proof.Machine

/-! ## Byte order (20_memory.md R43 to R45) -/

/-- One byte more weighs 256 times as much. -/
theorem two_pow_bytes_succ (n : Nat) : 2 ^ (8 * (n + 1)) = 256 * 2 ^ (8 * n) := by
  rw [Nat.mul_succ, Nat.pow_add, Nat.mul_comm]

theorem le_append (xs ys : List Byte) : le (xs ++ ys) = le xs + 2 ^ (8 * xs.length) * le ys := by
  induction xs with
  | nil => simp [le]
  | cons b xs ih =>
    rw [List.cons_append, le, le, ih, List.length_cons, two_pow_bytes_succ]
    ring

theorem le_lt (bs : List Byte) : le bs < 2 ^ (8 * bs.length) := by
  induction bs with
  | nil => simp [le]
  | cons b bs ih =>
    have hb := b.isLt
    rw [le, List.length_cons, two_pow_bytes_succ]
    omega

theorem le_eq_sum (bs : List Byte) : le bs = ∑ k ∈ Finset.range bs.length, (bs.getD k 0).toNat * 2 ^ (8 * k) := by
  induction bs with
  | nil => rfl
  | cons b bs ih =>
    rw [le, ih, List.length_cons, Finset.sum_range_succ', Finset.mul_sum, Nat.add_comm]
    congr 1
    · refine Finset.sum_congr rfl fun k _ => ?_
      rw [List.getD_cons_succ, two_pow_bytes_succ]
      ring
    · simp

/-- Two 32-bit words side by side. -/
theorem ofNat_add_two_pow_mul (x y : Nat) (hx : x < 2 ^ 32) (hy : y < 2 ^ 32) :
    BitVec.ofNat 64 (x + 2 ^ 32 * y) =
      (BitVec.ofNat 32 x).setWidth 64 + (BitVec.ofNat 32 y).setWidth 64 * 0x100000000#64 := by
  rw [BitVec.setWidth_ofNat_of_le_of_lt (by decide) hx, BitVec.setWidth_ofNat_of_le_of_lt (by decide) hy,
    ← BitVec.ofNat_mul, ← BitVec.ofNat_add, Nat.mul_comm]
  rfl

/-- Settles O41. -/
theorem littleEndianWords : Obligations.LittleEndianWords := by
  refine ⟨le_eq_sum, fun lo hi hlo hhi => ?_⟩
  have h0 := le_lt lo
  have h1 := le_lt hi
  have happ := le_append lo hi
  rw [hlo] at h0 happ
  rw [hhi] at h1
  exact (congrArg (BitVec.ofNat 64) happ).trans (ofNat_add_two_pow_mul _ _ h0 h1)

/-- Masking a word to its first bytes leaves their value. -/
theorem ofNat_le_eq_masked (w : Nat) (bs rest : List Byte) :
    BitVec.ofNat w (le bs) = BitVec.ofNat w (le (bs ++ rest)) &&& BitVec.ofNat w (2 ^ (8 * bs.length) - 1) := by
  have hmask : le (bs ++ rest) &&& (2 ^ (8 * bs.length) - 1) = le bs := by
    rw [Nat.and_two_pow_sub_one_eq_mod, le_append, Nat.add_mul_mod_self_left, Nat.mod_eq_of_lt (le_lt bs)]
  rw [← BitVec.ofNat_and, hmask]

/-- Settles O42: either width is masked the same way. -/
theorem subWordTailZeroesHigherBytes : Obligations.SubWordTailZeroesHigherBytes :=
  ⟨fun bs rest _ _ _ => ofNat_le_eq_masked 32 bs rest, fun bs rest _ _ _ => ofNat_le_eq_masked 64 bs rest⟩

/-! ## Who changes memory (20_memory.md R40) -/

theorem phaseStep_mem {s t : State} (h : phaseStep Config.build s = .next t) : t.mem = s.mem := by
  rcases phaseStep_cases h with ⟨_, _, _, rfl⟩ | ⟨_, _, _, -, rfl⟩ <;> rfl

theorem accept_mem (s : State) (q : Request) : (s.accept q).mem = s.mem := by
  rcases accept_cases s q with ⟨-, e⟩ | ⟨i, -, -, -, e⟩ | ⟨i, -, -, e⟩ <;> rw [e] <;> rfl

theorem hasherMove_mem {s t : State} {fine : Bool} (h : hasherMove fine s = .next t) : t.mem = s.mem := by
  rcases hasherMove_cases fine s with ⟨-, e⟩ | ⟨-, -, q, -, e⟩ | ⟨-, -, e⟩ <;> rw [e] at h
  · exact phaseStep_mem h
  · cases fine with
    | true => injection h with h; exact h ▸ accept_mem s q
    | false => obtain ⟨pairs, p, r, rfl⟩ := runCommand_emits h; rfl
  · injection h with h
    rw [h]

theorem step_of_write {s : State} {a : Word64} {b : Byte} {rest : List Turn} (h : s.turns = .write a b :: rest) :
    step s = .next (State.hostWrite { s with turns := rest } a b) := by
  simp [step, h, turnMove]

/-- Settles O15. -/
theorem onlyTheHostWritesMemory : Obligations.OnlyTheHostWritesMemory := by
  refine ⟨fun s t hwrite hunmap h addr => ?_, fun s a b rest ht => ?_⟩
  · rcases step_cases h with ⟨fine, rest, -, hm⟩ | ⟨q, rest, -, -, rfl⟩ | ⟨p, rest, -, -, rfl⟩ | ⟨rest, -, rfl⟩ |
      ⟨a, b, rest, e, -⟩ | ⟨a, rest, e, -⟩
    · rw [hasherMove_mem hm]
    · rfl
    · rfl
    · rfl
    · exact absurd e (hwrite a b rest)
    · exact absurd e (hunmap a rest)
  · exact ⟨_, step_of_write ht, Memory.read_write_same _ a b, fun x hx => Memory.read_write_other _ hx b,
      State.hostWrite_regs _ a b, State.hostWrite_phase _ a b, State.hostWrite_request _ a b,
      State.hostWrite_response _ a b⟩

/-! ## What an address answered since acceptance (20_memory.md R54) -/

theorem State.answers_of_held_nil {s : State} (h : s.held = []) (x : Word64) : s.answers x = [s.mem.read x] := by
  simp [State.answers, h]

theorem State.answers_congr {s t : State} (hm : t.mem = s.mem) (hh : t.held = s.held) (x : Word64) :
    t.answers x = s.answers x := by
  rw [State.answers, State.answers, hm, hh]

theorem State.read_mem_answers (s : State) (x : Word64) : s.mem.read x ∈ s.answers x :=
  List.mem_cons_self

theorem phaseStep_held {s t : State} (h : phaseStep Config.build s = .next t) : t.held = s.held := by
  rcases phaseStep_cases h with ⟨_, _, _, rfl⟩ | ⟨_, _, _, -, rfl⟩ <;> rfl

/-- Settles O16: the write keeps the one answer it replaces, of the one address it writes. -/
theorem writeInFlightKeepsTheOldAnswer : Obligations.WriteInFlightKeepsTheOldAnswer := by
  intro s a b rest i ht hb hd hf hlo hhi
  have hin : s.inFlight a = true := by
    simp [State.inFlight, State.busy, hb, hd, hf, inMessage, hlo, hhi]
  have hin' : State.inFlight { s with turns := rest } a = true := hin
  refine ⟨_, step_of_write ht, Memory.read_write_same _ a b, ?_, fun x hx => ?_, by simp, by simp, by simp, by simp,
    by simp⟩
  · simp [State.answers, State.hold_held, hin', Memory.read_write_same]
  · simp [State.answers, State.hold_held, hin', Memory.read_write_other _ hx, Ne.symm hx]

/-- Only an acceptance makes an idle hasher busy, and it empties the record of answers. -/
theorem hasherMove_starts {s t : State} {fine : Bool} (hp : s.phase = .idle) (h : hasherMove fine s = .next t)
    (hb : t.phase ≠ .idle) : t.held = [] := by
  rcases hasherMove_cases fine s with ⟨hb', -⟩ | ⟨-, -, q, -, e⟩ | ⟨-, -, e⟩
  · exact absurd hp hb'
  · rw [e] at h
    cases fine with
    | true =>
      injection h with h
      subst h
      rcases accept_cases s q with ⟨-, e⟩ | ⟨i, -, -, -, e⟩ | ⟨i, -, -, e⟩ <;> rw [e] <;> rfl
    | false =>
      obtain ⟨pairs, p, r, rfl⟩ := runCommand_emits h
      exact absurd rfl hb
  · rw [e] at h
    injection h with h
    exact absurd (h ▸ hp) hb

/-- Settles O17: acceptance empties the record; of the moves that leave the hasher busy, only the host's two
memory moves change what an address answers. -/
theorem answersAreThoseSinceAcceptance : Obligations.AnswersAreThoseSinceAcceptance := by
  refine ⟨fun s t h hp hb x => ?_, fun s t h hp hb x hx r => ?_⟩
  · rcases step_cases h with ⟨fine, rest, -, hm⟩ | ⟨q, rest, -, -, rfl⟩ | ⟨p, rest, -, -, rfl⟩ | ⟨rest, -, rfl⟩ |
      ⟨a, b, rest, -, rfl⟩ | ⟨a, rest, -, rfl⟩
    · exact State.answers_of_held_nil (hasherMove_starts (s := { s with turns := rest }) hp hm hb) x
    · exact absurd hp hb
    · exact absurd hp hb
    · exact absurd rfl hb
    · exact absurd hp (by simpa using hb)
    · exact absurd hp (by simpa using hb)
  · have same (hm : t.mem = s.mem) (hh : t.held = s.held) :
        r ∈ t.answers x ↔ r = t.mem.read x ∨ r ∈ s.answers x := by
      rw [State.answers_congr hm hh, hm]
      exact ⟨.inr, fun h => h.elim (fun e => e ▸ s.read_mem_answers x) id⟩
    rcases step_cases h with ⟨fine, rest, -, hm⟩ | ⟨q, rest, -, -, rfl⟩ | ⟨p, rest, -, -, rfl⟩ | ⟨rest, -, rfl⟩ |
      ⟨a, b, rest, -, rfl⟩ | ⟨a, rest, -, rfl⟩
    · rw [hasherMove_busy (s := { s with turns := rest }) hp] at hm
      exact same (phaseStep_mem (s := { s with turns := rest }) hm) (phaseStep_held (s := { s with turns := rest }) hm)
    · exact same rfl rfl
    · exact same rfl rfl
    · exact absurd rfl hb
    · exact State.mem_answers_hostWrite (s := { s with turns := rest }) hx
    · exact State.mem_answers_hostUnmap (s := { s with turns := rest }) hx

/-! ## The empty message (20_memory.md R48) -/

/-- With no byte to read a hash command answers, whatever the address. -/
theorem hashCommand_empty (i : Instr) {s : State} (hl : s.regs.captured.len = 0) {answer : List Byte → Response}
    (hgood : (answer []).err = 0) :
    ∃ t p, hashCommand i s answer = .next t ∧ t.reads = s.reads ∧ t.response = some p ∧ p.err = 0 :=
  ⟨s.respond i (answer []), _, by simp [hashCommand, addrWraps, hl, ReadResult.bytes], rfl, rfl, hgood⟩

/-- Settles O23. -/
theorem emptyMessageIsNeverRead : Obligations.EmptyMessageIsNeverRead := by
  intro i s hf hl
  cases i with
  | shake32 => exact exec_shake32 s ▸ hashCommand_empty _ hl rfl
  | shake64 dual => exact exec_shake64 dual s ▸ hashCommand_empty _ hl (by cases dual <;> rfl)
  | stir => exact exec_stir s ▸ hashCommand_empty _ hl rfl
  | _ => cases hf

end Sys2Proof.Machine
end

section
/-! PROOFS. SHAKE32 and SHAKE64 by offsets into the message (41_shake32.md R99; 43_shake64.md R140) are the model's
own functions of it, so the response of a hash command on a message is the rest after INIT from all its bytes. -/

namespace Sys2Proof.Machine

/-! ## Words at an offset -/

/-- Cutting a stretch of the message first and a word out of it is cutting the word. -/
theorem le_word_of_stretch (msg : List Byte) {p size k n : Nat} (h : k + n ≤ size) :
    le ((((msg.drop p).take size).drop k).take n) = msgWord msg (p + k) n := by
  rw [msgWord, List.drop_take, List.take_take, List.drop_drop, Nat.min_eq_left (by omega)]

theorem blockWord32_stretch (msg : List Byte) (p : Nat) {i : Nat} (h : i < 4) :
    blockWord32 ((msg.drop p).take 16) i = BitVec.ofNat 32 (msgWord msg (p + 4 * i) 4) :=
  congrArg _ (le_word_of_stretch msg (by omega))

theorem blockWord64_stretch (msg : List Byte) (p : Nat) {i : Nat} (h : i < 12) :
    blockWord64 ((msg.drop p).take 96) i = BitVec.ofNat 64 (msgWord msg (p + 8 * i) 8) :=
  congrArg _ (le_word_of_stretch msg (by omega))

/-- What is left of the message past the whole words is its sub-word tail. -/
theorem le_drop_tail {msg : List Byte} {block word n : Nat} (hl : msg.length = n) (hd : word ∣ block) :
    le ((msg.drop (block * nblk block n)).drop (word * nw block word n)) = msgWord msg (n - n % word) (n % word) := by
  have hmod : n % block % word = n % word := Nat.mod_mod_of_dvd n hd
  have hblock := Nat.div_add_mod n block
  have hword := Nat.div_add_mod (n % block) word
  have hat : block * nblk block n + word * nw block word n = n - n % word := by
    simp only [nblk, nw]
    omega
  have hle := Nat.mod_le n word
  rw [List.drop_drop, hat, msgWord, List.take_of_length_le (by simp only [List.length_drop]; omega)]

/-! ## SHAKE32 -/

/-- The four lanes, apart, as 41_shake32.md R99 has them. -/
def lanes32 (s : Lanes32) : Word32 × Word32 × Word32 × Word32 := (s[0], s[1], s[2], s[3])

/-- A block at an offset of the message, lane by lane. -/
def blockLanes32 (c : Config) (gd : Word32) (msg : List Byte) (t : Word32 × Word32 × Word32 × Word32) (j : Nat) :
    Word32 × Word32 × Word32 × Word32 :=
  let w := fun p => BitVec.ofNat 32 (msgWord msg p 4)
  (combine32 c t.1 (w (16 * j)) gd, combine32 c t.2.1 (w (16 * j + 4)) gd,
    combine32 c t.2.2.1 (w (16 * j + 8)) gd, combine32 c t.2.2.2 (w (16 * j + 12)) gd)

theorem lanes32_block32 (c : Config) (gd : Word32) (msg : List Byte) (s : Lanes32) (j : Nat) :
    blockLanes32 c gd msg (lanes32 s) j = lanes32 (block32 c gd s ((msg.drop (16 * j)).take 16)) := by
  have lane {i : Nat} (h : i < 4) : combine32 c s[i] (BitVec.ofNat 32 (msgWord msg (16 * j + 4 * i) 4)) gd =
      (block32 c gd s ((msg.drop (16 * j)).take 16))[i] := by
    rw [← blockWord32_stretch msg (16 * j) h]
    simp [block32]
  exact Prod.ext (lane (i := 0) (by decide)) (Prod.ext (lane (i := 1) (by decide))
    (Prod.ext (lane (i := 2) (by decide)) (lane (i := 3) (by decide))))

theorem lanes32_blocks32 (c : Config) (gd : Word32) (msg : List Byte) (n : Nat) (s : Lanes32) :
    (List.range n).foldl (blockLanes32 c gd msg) (lanes32 s) = lanes32 (blocks32 c gd n s msg) := by
  rw [blocks32_foldl]
  exact List.foldl_hom lanes32 fun s j => lanes32_block32 c gd msg s j

theorem lane0_condense32 (c : Config) (gd : Word32) (s : Lanes32) :
    (condense32 c gd s)[0] = combine32 c (combine32 c s[0] s[1] gd) (combine32 c s[2] s[3] gd) gd := by
  simp [condense32]

theorem lane0_byteTail32 (c : Config) (gd : Word32) (s : Lanes32) (bs : List Byte) :
    (byteTail32 c gd s bs)[0] = combine32 c s[0] (word32 bs) gd := by
  simp [byteTail32]

/-- The word tail, in lane 0. -/
theorem lane0_wordTails32 (c : Config) (gd : Word32) (msg : List Byte) (p n : Nat) (s : Lanes32) :
    (wordTails32 c gd n s (msg.drop p))[0] =
      (List.range n).foldl (fun x j => c.mix32 (x + gd) (BitVec.ofNat 32 (msgWord msg (p + 4 * j) 4))) s[0] := by
  rw [wordTails32_foldl, wordTails32_lane0]
  simp only [List.drop_drop]
  rfl

/-- The lines of 41_shake32.md R99 after the bulk phase, from its four lanes. -/
def afterBulk32 (c : Config) (gd : Word32) (len : Word64) (msg : List Byte)
    (t : Word32 × Word32 × Word32 × Word32) : Word32 :=
  let n := len.toNat
  let w := fun p k => BitVec.ofNat 32 (msgWord msg p k)
  let s0 := combine32 c t.1 (low32 len) gd
  let s0 := if 16 ≤ n then combine32 c (combine32 c s0 t.2.1 gd) (combine32 c t.2.2.1 t.2.2.2 gd) gd else s0
  let s0 := (List.range (n % 16 / 4)).foldl (fun s j => c.mix32 (s + gd) (w (16 * (n / 16) + 4 * j) 4)) s0
  scramble32 c (if n % 4 ≠ 0 then combine32 c s0 (w (n - n % 4) (n % 4)) gd else s0)

theorem shake32Reference_eq_afterBulk32 (c : Config) (sd : Word32) (len : Word64) (msg : List Byte) :
    shake32Reference c sd len msg = afterBulk32 c (guardTerm c sd) len msg
      ((List.range (len.toNat / 16)).foldl (blockLanes32 c (guardTerm c sd) msg)
        (c.c32[0] + (sd - guardTerm c sd), c.c32[1], c.c32[2], c.c32[3])) := rfl

theorem shake32Digest_eq_afterBulk32 (c : Config) (sd : Word32) (len : Word64) {msg : List Byte}
    (hl : msg.length = len.toNat) : shake32Digest c sd len msg = afterBulk32 c (guardTerm c sd) len msg
      (lanes32 (blocks32 c (guardTerm c sd) (nblk 16 len.toNat) (init32 c sd (guardTerm c sd)) msg)) := by
  have htail := le_drop_tail hl (by decide : 4 ∣ 16)
  simp only [shake32Digest, final32]
  generalize blocks32 c (guardTerm c sd) (nblk 16 len.toNat) (init32 c sd (guardTerm c sd)) msg = s
  simp only [apply_ite (fun s : Lanes32 => s[0]), lane0_byteTail32, lane0_wordTails32, lane0_condense32, word32, htail]
  simp [afterBulk32, lanes32, lenfold32, nblk, nw, nb]

theorem shake32Digest_eq_reference (c : Config) (sd : Word32) (len : Word64) {msg : List Byte}
    (hl : msg.length = len.toNat) : shake32Digest c sd len msg = shake32Reference c sd len msg := by
  have hinit : lanes32 (init32 c sd (guardTerm c sd)) =
      (c.c32[0] + (sd - guardTerm c sd), c.c32[1], c.c32[2], c.c32[3]) := by
    simp [lanes32, init32]
  rw [shake32Digest_eq_afterBulk32 c sd len hl, ← lanes32_blocks32, hinit, shake32Reference_eq_afterBulk32]
  rfl

/-! ## SHAKE64 -/

theorem blockWords64_stretch (msg : List Byte) (p : Nat) :
    blockWords64 ((msg.drop p).take 96) =
      Vector.ofFn fun i : Fin 12 => BitVec.ofNat 64 (msgWord msg (p + 8 * i.val) 8) := by
  rw [blockWords64]
  exact congrArg Vector.ofFn (funext fun i => blockWord64_stretch msg p i.isLt)

theorem blocks64_eq_bulk64Reference (c : Config) (sd len : Word64) (msg : List Byte) :
    blocks64 c (guardTerm c sd) (nblk 96 len.toNat) (init64 c sd (guardTerm c sd)) msg =
      bulk64Reference c sd len msg := by
  simp only [blocks64_foldl, block64, blockWords64_stretch, bulk64Reference, nblk, init64, guardTerm]

theorem lane_set_zero (s : Lanes64) (x : Word64) {j : Fin 12} (hj : j ≠ 0) : (s.set 0 x)[j] = s[j] :=
  Vector.getElem_set_ne (by decide) j.isLt fun e => hj (Fin.ext e.symm)

/-- The condensation writes lane 0 only, so every other source lane is as the bulk phase left it. -/
theorem condense64_foldl_lanes (c : Config) (gd : Word64) (bulk : Lanes64) : ∀ (l : List (Fin 12)) (s : Lanes64),
    (∀ j : Fin 12, j ≠ 0 → s[j] = bulk[j]) →
    (l.foldl (fun (t : Lanes64) j => t.set 0 (mix64 c t[0] t[j] gd)) s)[0] =
        l.foldl (fun (x : Word64) (j : Fin 12) => mix64 c x (if j = 0 then x else bulk[j]) gd) s[0] ∧
      ∀ j : Fin 12, j ≠ 0 → (l.foldl (fun (t : Lanes64) j => t.set 0 (mix64 c t[0] t[j] gd)) s)[j] = bulk[j]
  | [], s, h => ⟨rfl, h⟩
  | k :: l, s, h => by
    have hk : s[k] = if k = 0 then s[0] else bulk[k] := by
      split
      case isTrue h0 => rw [h0]; rfl
      case isFalse h0 => exact h k h0
    obtain ⟨h0, hother⟩ := condense64_foldl_lanes c gd bulk l (s.set 0 (mix64 c s[0] s[k] gd))
      fun j hj => (lane_set_zero s _ hj).trans (h j hj)
    rw [List.foldl_cons, List.foldl_cons]
    refine ⟨h0.trans ?_, hother⟩
    rw [Vector.getElem_set_self, hk]

theorem wordTails64_other (c : Config) (gd : Word64) {j : Fin 12} (hj : j ≠ 0) :
    ∀ (n : Nat) (s : Lanes64) (bs : List Byte), (wordTails64 c gd n s bs)[j] = s[j]
  | 0, _, _ => rfl
  | n + 1, s, _ => (wordTails64_other c gd hj n _ _).trans (lane_set_zero s _ hj)

theorem lane0_tail64 (c : Config) (gd : Word64) (s : Lanes64) (bs : List Byte) :
    (tail64 c gd s bs)[0] = mix64 c s[0] (word64 bs) gd :=
  Vector.getElem_set_self (by decide)

/-- The word tail, in lane 0. -/
theorem lane0_wordTails64 (c : Config) (gd : Word64) (msg : List Byte) (p n : Nat) (s : Lanes64) :
    (wordTails64 c gd n s (msg.drop p))[0] =
      (List.range n).foldl (fun x j => mix64 c x (BitVec.ofNat 64 (msgWord msg (p + 8 * j) 8)) gd) s[0] := by
  rw [wordTails64_foldl, wordTails64_lane0]
  simp only [List.drop_drop]
  rfl

/-- The lanes after LENFOLD and CONDENSE, if the length has it. -/
def folded64 (c : Config) (gd len : Word64) (s : Lanes64) : Lanes64 :=
  if 96 ≤ len.toNat then condense64 c (lenfold64 c gd s len) gd else lenfold64 c gd s len

theorem folded64_lanes (c : Config) (gd len : Word64) (s : Lanes64) :
    ((folded64 c gd len s)[0] =
      if 96 ≤ len.toNat then
        c.cond64Src.foldl (fun (x : Word64) (j : Fin 12) => mix64 c x (if j = 0 then x else s[j]) gd)
          (mix64 c s[0] len gd)
      else mix64 c s[0] len gd) ∧
    ∀ j : Fin 12, j ≠ 0 → (folded64 c gd len s)[j] = s[j] := by
  have h0 : (lenfold64 c gd s len)[0] = mix64 c s[0] len gd := Vector.getElem_set_self (by decide)
  have hother (j : Fin 12) (hj : j ≠ 0) : (lenfold64 c gd s len)[j] = s[j] := lane_set_zero s _ hj
  unfold folded64
  split
  case isTrue => exact h0 ▸ condense64_foldl_lanes c gd s c.cond64Src _ hother
  case isFalse => exact ⟨h0, hother⟩

theorem shake64Lanes_eq_folded64 (c : Config) (sd len : Word64) (msg : List Byte) :
    shake64Lanes c sd len msg =
      let s := wordTails64 c (guardTerm c sd) (nw 96 8 len.toNat)
        (folded64 c (guardTerm c sd) len (bulk64Reference c sd len msg)) (msg.drop (96 * nblk 96 len.toNat))
      if nb 8 len.toNat ≠ 0 then
        tail64 c (guardTerm c sd) s ((msg.drop (96 * nblk 96 len.toNat)).drop (8 * nw 96 8 len.toNat))
      else s := by
  rw [← blocks64_eq_bulk64Reference]
  rfl

theorem shake64Lanes_lane0 (c : Config) (sd len : Word64) {msg : List Byte} (hl : msg.length = len.toNat) :
    (shake64Lanes c sd len msg)[0] = lane64Reference c sd len msg := by
  have htail := le_drop_tail hl (by decide : 8 ∣ 96)
  rw [shake64Lanes_eq_folded64]
  simp only [apply_ite (fun s : Lanes64 => s[0]), lane0_tail64, lane0_wordTails64, word64, htail,
    (folded64_lanes c (guardTerm c sd) len (bulk64Reference c sd len msg)).1]
  rfl

theorem shake64Lanes_other (c : Config) (sd len : Word64) (msg : List Byte) {j : Fin 12} (hj : j ≠ 0) :
    (shake64Lanes c sd len msg)[j] = (bulk64Reference c sd len msg)[j] := by
  have hwords := (wordTails64_other c (guardTerm c sd) hj (nw 96 8 len.toNat) _
    (msg.drop (96 * nblk 96 len.toNat))).trans
      ((folded64_lanes c (guardTerm c sd) len (bulk64Reference c sd len msg)).2 j hj)
  rw [shake64Lanes_eq_folded64]
  dsimp only
  split
  case isTrue => exact (lane_set_zero _ _ hj).trans hwords
  case isFalse => exact hwords

/-! ## The response on a message -/

theorem hashAnswer_shake32 (q : Request) {msg : List Byte} (hl : msg.length = q.len.toNat) :
    hashAnswer .shake32 q msg = some (.good (zext64 (shake32Digest Config.build (seed32 q) q.len msg))) := by
  rw [shake32Digest_eq_reference _ _ _ hl]
  rfl

theorem hashAnswer_shake64 (dual : Bool) (q : Request) {msg : List Byte} (hl : msg.length = q.len.toNat) :
    hashAnswer (.shake64 dual) q msg =
      some (answer64 Config.build dual (shake64Lanes Config.build q.seed q.len msg)) := by
  have h0 := shake64Lanes_lane0 Config.build q.seed q.len hl
  have h2 : (shake64Lanes Config.build q.seed q.len msg)[2] = (bulk64Reference Config.build q.seed q.len msg)[2] :=
    shake64Lanes_other Config.build q.seed q.len msg (j := 2) (by decide)
  cases dual with
  | false => simp only [hashAnswer, answer64, final64, h0]; rfl
  | true => simp only [hashAnswer, answer64, final64, dual64, h0, h2]; rfl

/-- The rule's response on the whole message is that of the rest of the command after INIT. -/
theorem hashAnswer_eq_restAnswer {i : Instr} {r : Regs} {n : Nat} {write : List Byte → Regs} {msg : List Byte}
    (h : hashWork Config.build i r .init = .read n write) (hl : msg.length = r.captured.len.toNat) :
    hashAnswer i r.captured msg =
      some (restAnswer Config.build i (write []) (nextPhase i r.captured.len.toNat 0 .init) msg) := by
  cases i with
  | shake32 =>
    cases h
    rw [hashAnswer_shake32 _ hl, shake32Digest_eq_lanesFrom]
    simp only [restAnswer, Regs.gd32, low32_zext64]
    rfl
  | shake64 dual =>
    cases h
    rw [hashAnswer_shake64 dual _ hl, restAnswer, if_neg (nextPhase_shake64_not_final _ _ (by decide)),
      shake64Lanes_eq_lanesFrom]
    rfl
  | stir => cases h; rfl
  | _ => cases h

/-- It is a good response. -/
theorem hashAnswer_err {i : Instr} {q : Request} {msg : List Byte} {p : Response}
    (h : hashAnswer i q msg = some p) : p.err = 0 := by
  cases i with
  | shake32 => cases h; rfl
  | shake64 dual => cases dual <;> cases h <;> rfl
  | stir => cases h; rfl
  | _ => cases h

end Sys2Proof.Machine
end

section
/-! PROOFS. What a step reads (20_memory.md R42, R47, R54): bytes of its command's message, in order from the cursor
on, each an answer of its address. -/

namespace Sys2Proof.Machine

/-! ## Byte sequences at an address -/

/-- Each byte of the sequence is, at its address, one of the answers `A` allows. -/
def BytesAnswered (A : Word64 → Option Byte → Prop) (a : Word64) (msg : List Byte) : Prop :=
  ∀ k b, msg[k]? = some b → A (a + BitVec.ofNat 64 k) (some b)

/-- A message held is one whose bytes are the one answer each address has. -/
theorem holdsMessage_iff {f : Word64 → Option Byte} {a : Word64} {msg : List Byte} :
    HoldsMessage f a msg ↔ BytesAnswered (fun x r => f x = r) a msg := Iff.rfl

section
variable {A B : Word64 → Option Byte → Prop} {a : Word64} {xs ys : List Byte}

theorem BytesAnswered.nil : BytesAnswered A a [] := fun _ _ h => by simp at h

theorem BytesAnswered.mono (h : BytesAnswered A a xs) (hAB : ∀ x r, A x r → B x r) : BytesAnswered B a xs :=
  fun k b hk => hAB _ _ (h k b hk)

theorem BytesAnswered.append (hx : BytesAnswered A a xs)
    (hy : BytesAnswered A (a + BitVec.ofNat 64 xs.length) ys) : BytesAnswered A a (xs ++ ys) := by
  intro k b hk
  by_cases h : k < xs.length
  · exact hx k b (by rwa [List.getElem?_append_left h] at hk)
  · obtain ⟨j, rfl⟩ := Nat.exists_eq_add_of_le (Nat.le_of_not_lt h)
    rw [List.getElem?_append_right (Nat.le_add_right _ _), Nat.add_sub_cancel_left] at hk
    rw [BitVec.ofNat_add, ← BitVec.add_assoc]
    exact hy j b hk

end

theorem messageReads_append (xs ys : List Byte) : ∀ a : Word64,
    messageReads a (xs ++ ys) = messageReads a xs ++ messageReads (a + BitVec.ofNat 64 xs.length) ys := by
  induction xs with
  | nil => intro a; simp [messageReads]
  | cons b xs ih =>
    intro a
    rw [List.cons_append, messageReads, ih, next_address, messageReads, List.cons_append, List.length_cons]

/-- A read of a message is at the offset of its byte. -/
theorem mem_messageReads {msg : List Byte} {x : Word64 × Byte} : ∀ {a : Word64}, x ∈ messageReads a msg →
    ∃ k, msg[k]? = some x.2 ∧ x.1 = a + BitVec.ofNat 64 k := by
  induction msg with
  | nil => intro a h; cases h
  | cons b bs ih =>
    intro a h
    rcases List.mem_cons.1 h with rfl | h
    · exact ⟨0, rfl, by simp⟩
    · obtain ⟨k, hk, hx⟩ := ih h
      exact ⟨k + 1, by simpa using hk, by rw [hx, next_address]⟩

/-- A run of reads reads the message that is answered, whole or up to its first hole. -/
theorem readBytes_cases (f : Word64 → Option Byte) (a : Word64) (n : Nat) :
    ∃ msg, HoldsMessage f a msg ∧
      ((msg.length = n ∧ readBytes f a n = ⟨messageReads a msg, none⟩) ∨
        (msg.length < n ∧ f (a + BitVec.ofNat 64 msg.length) = none ∧
          readBytes f a n = ⟨messageReads a msg, some (a + BitVec.ofNat 64 msg.length)⟩)) := by
  suffices h : ∃ msg, HoldsMessage f a msg ∧
      (msg.length = n ∨ msg.length < n ∧ f (a + BitVec.ofNat 64 msg.length) = none) by
    obtain ⟨msg, hm, rfl | ⟨hlt, hnone⟩⟩ := h
    · exact ⟨msg, hm, .inl ⟨rfl, readBytes_of_holds msg hm⟩⟩
    · exact ⟨msg, hm, .inr ⟨hlt, hnone, readBytes_of_hole hm hlt hnone⟩⟩
  induction n with
  | zero => exact ⟨[], holdsMessage_iff.2 .nil, .inl rfl⟩
  | succ n ih =>
    obtain ⟨msg, hm, hl | ⟨hlt, hnone⟩⟩ := ih
    · cases hb : f (a + BitVec.ofNat 64 msg.length) with
      | none => exact ⟨msg, hm, .inr ⟨by omega, hb⟩⟩
      | some b =>
        have hone : BytesAnswered (fun x r => f x = r) (a + BitVec.ofNat 64 msg.length) [b] := fun k c hk => by
          obtain ⟨rfl, rfl⟩ : k = 0 ∧ b = c := by cases k <;> simp_all
          simpa using hb
        exact ⟨msg ++ [b], holdsMessage_iff.2 ((holdsMessage_iff.1 hm).append hone), .inl (by simp [hl])⟩
    · exact ⟨msg, hm, .inr ⟨by omega, hnone⟩⟩

/-! ## Reads inside the message -/

theorem inMessage_offset {q : Request} (hw : addrWraps q = false) {k : Nat} (hk : k < q.len.toNat) :
    inMessage q (q.addr + BitVec.ofNat 64 k) = true := by
  have hlen : q.len ≠ 0 := by rintro h; simp [h] at hk
  have hfits : q.len ≠ 0 → q.addr.toNat + q.len.toNat ≤ 2 ^ 64 := by simpa [addrWraps] using hw
  specialize hfits hlen
  have hlt : q.addr.toNat + k < 2 ^ 64 := by omega
  have haddr : (q.addr + BitVec.ofNat 64 k).toNat = q.addr.toNat + k := by
    rw [BitVec.toNat_add, BitVec.toNat_ofNat, Nat.add_mod_mod, Nat.mod_eq_of_lt hlt]
  rw [inMessage, haddr]
  simp only [decide_eq_true_eq]
  omega

/-- The reads of a stretch of the message that lies `p` bytes into it. -/
theorem reads_inMessage {q : Request} (hw : addrWraps q = false) {f : Word64 → Option Byte} {a : Word64} {p : Nat}
    {bs : List Byte} (ha : a = q.addr + BitVec.ofNat 64 p) (hle : p + bs.length ≤ q.len.toNat)
    (hb : HoldsMessage f a bs) : ∀ x ∈ messageReads a bs, inMessage q x.1 = true ∧ f x.1 = some x.2 := by
  intro x hx
  obtain ⟨k, hk, hxk⟩ := mem_messageReads hx
  have hlt : k < bs.length := (List.getElem?_eq_some_iff.1 hk).1
  refine ⟨?_, hxk ▸ hb k x.2 hk⟩
  rw [hxk, ha, BitVec.add_assoc, ← BitVec.ofNat_add]
  exact inMessage_offset hw (by omega)

/-! ## One phase -/

/-- The address of the byte at the cursor. -/
def State.cursorAddress (s : State) : Word64 := s.regs.captured.addr + s.regs.pos

section
variable {s : State} {i : Instr} {n : Nat} {bs : List Byte} {x : Word64} (write : List Byte → Regs)

theorem readPhase_of_read (h : readBytes s.sample s.cursorAddress n = ⟨messageReads s.cursorAddress bs, none⟩) :
    s.readPhase i n write = (s.logReads (messageReads s.cursorAddress bs)).advance i (write bs) := by
  rw [State.cursorAddress] at h ⊢
  simp only [State.readPhase, h, ReadResult.bytes, messageReads_bytes]

theorem readPhase_of_refused
    (h : readBytes s.sample s.cursorAddress n = ⟨messageReads s.cursorAddress bs, some x⟩) :
    s.readPhase i n write = (s.logReads (messageReads s.cursorAddress bs)).raise i .msgAccessFault x := by
  rw [State.cursorAddress] at h ⊢
  simp only [State.readPhase, h]

end

/-- A phase step of a hash command: FINAL answers; any other reads at the cursor the bytes the phase asks for and
goes on, or fewer and faults at the first refused one. -/
theorem CommandInProgress.hashStep_cases {s t : State} {i : Instr} (h : CommandInProgress s i) (hf : i.format = .h)
    (ht : phaseStep Config.build s = .next t) :
    (s.phase = .final ∧ ∃ p, hashWork Config.build i s.regs .final = .answer p ∧ t = s.respond i p) ∨
    (s.phase ≠ .final ∧ ∃ n write bs, hashWork Config.build i s.regs s.phase = .read n write ∧
      HoldsMessage s.sample s.cursorAddress bs ∧
      ((bs.length = n ∧ t = (s.logReads (messageReads s.cursorAddress bs)).advance i (write bs)) ∨
        (bs.length < n ∧ s.sample (s.cursorAddress + BitVec.ofNat 64 bs.length) = none ∧
          t = (s.logReads (messageReads s.cursorAddress bs)).raise i .msgAccessFault
            (s.cursorAddress + BitVec.ofNat 64 bs.length)))) := by
  rw [phaseStep_hash _ h.legal hf] at ht
  by_cases hfin : s.phase = .final
  · obtain ⟨p, hp⟩ := hashWork_final (r := s.regs) hf
    rw [hfin, hp] at ht
    injection ht with ht
    exact .inl ⟨hfin, p, hp, ht.symm⟩
  · obtain ⟨n, write, hw⟩ := hashWork_of_cursorOk (r := s.regs) hf h.cursor hfin
    rw [hw] at ht
    injection ht with ht
    obtain ⟨bs, hb, hr⟩ := readBytes_cases s.sample s.cursorAddress n
    refine .inr ⟨hfin, n, write, bs, hw, hb, ?_⟩
    rcases hr with ⟨hl, e⟩ | ⟨hlt, hnone, e⟩
    · exact .inl ⟨hl, ht.symm.trans (readPhase_of_read write e)⟩
    · exact .inr ⟨hlt, hnone, ht.symm.trans (readPhase_of_refused write e)⟩

/-- The bytes a phase reads at the cursor are left of the message. -/
theorem CommandInProgress.read_fits {s : State} {i : Instr} (h : CommandInProgress s i) (hf : i.format = .h)
    {n : Nat} {write : List Byte → Regs} (hw : hashWork Config.build i s.regs s.phase = .read n write) :
    n = 0 ∨ s.regs.pos.toNat + n ≤ s.regs.captured.len.toNat := by
  obtain ⟨rfl, -⟩ := hashWork_writes hw
  by_cases hi : s.phase = .init
  · rw [hi]; exact .inl (by cases i <;> rfl)
  · exact .inr (cursorOk_fits hf h.cursor hi)

/-- From `s` to `t` reads may be added, each in the request's message and of the byte `f` answers there. -/
def ReadsAdded (q : Request) (f : Word64 → Option Byte) (s t : State) : Prop :=
  ∃ new, t.reads = s.reads ++ new ∧ ∀ x ∈ new, inMessage q x.1 = true ∧ f x.1 = some x.2

theorem ReadsAdded.of_none {q : Request} {f : Word64 → Option Byte} {s t : State} (h : t.reads = s.reads) :
    ReadsAdded q f s t := ⟨[], by simp [h], by simp⟩

/-- A phase step reads a stretch of the message at the cursor, or nothing. -/
theorem CommandInProgress.phaseStep_reads {s t : State} {i : Instr} (h : CommandInProgress s i)
    (ht : phaseStep Config.build s = .next t) : ReadsAdded s.regs.captured s.sample s t := by
  by_cases hf : i.format = .h
  · rcases h.hashStep_cases hf ht with ⟨-, p, -, rfl⟩ | ⟨-, n, write, bs, hw, hb, hend⟩
    · exact .of_none rfl
    · have hreads : t.reads = s.reads ++ messageReads s.cursorAddress bs := by
        rcases hend with ⟨-, rfl⟩ | ⟨-, -, rfl⟩ <;> rfl
      have hle : bs.length ≤ n := hend.elim (fun e => e.1.le) fun e => e.1.le
      rcases h.read_fits hf hw with rfl | hfits
      · obtain rfl := List.eq_nil_of_length_eq_zero (Nat.le_zero.1 hle)
        exact .of_none (by simpa [messageReads] using hreads)
      · refine ⟨_, hreads, reads_inMessage (h.range hf) (p := s.regs.pos.toNat) ?_ (by omega) hb⟩
        rw [State.cursorAddress, BitVec.ofNat_toNat, BitVec.setWidth_eq]
  · obtain ⟨answer, he⟩ := exec_primitive hf
    rw [phaseStep_primitive h.legal hf, if_pos (h.compute hf), he] at ht
    injection ht with ht
    exact .of_none (ht ▸ rfl)

/-! ## A whole command -/

theorem hashCommand_reads {i : Instr} {s t : State} {answer : List Byte → Response}
    (ht : hashCommand i s answer = .next t) : ReadsAdded s.regs.captured s.mem.read s t := by
  obtain ⟨bs, hb, hr⟩ := readBytes_cases s.mem.read s.regs.captured.addr s.regs.captured.len.toNat
  have hle : bs.length ≤ s.regs.captured.len.toNat := hr.elim (fun e => e.1.le) fun e => e.1.le
  have hpairs : (readBytes s.mem.read s.regs.captured.addr s.regs.captured.len.toNat).pairs =
      messageReads s.regs.captured.addr bs := by
    rcases hr with ⟨-, e⟩ | ⟨-, -, e⟩ <;> rw [e]
  have stretch (hw : addrWraps s.regs.captured = false) :
      ∀ x ∈ (readBytes s.mem.read s.regs.captured.addr s.regs.captured.len.toNat).pairs,
        inMessage s.regs.captured x.1 = true ∧ s.mem.read x.1 = some x.2 :=
    hpairs ▸ reads_inMessage hw (p := 0) (by simp) (by omega) hb
  rcases hashCommand_cases i s answer with ⟨-, e⟩ | ⟨hw, x, -, e⟩ | ⟨hw, -, e⟩ <;> rw [e] at ht <;>
    injection ht with ht <;> subst ht
  · exact .of_none (State.raise_reads ..)
  · exact ⟨_, rfl, stretch hw⟩
  · exact ⟨_, rfl, stretch hw⟩

theorem runCommand_reads {s t : State} {q : Request} (ht : runCommand s q = .next t) :
    ReadsAdded q s.mem.read s t := by
  cases hd : decode q.cmd with
  | error e =>
    rw [runCommand, hd] at ht
    injection ht with ht
    exact .of_none (ht ▸ rfl)
  | ok i =>
    rw [runCommand_of_decode s hd] at ht
    by_cases hf : i.format = .h
    · cases i with
      | shake32 => exact hashCommand_reads (s := s.capture q) (exec_shake32 _ ▸ ht)
      | shake64 dual => exact hashCommand_reads (s := s.capture q) (exec_shake64 dual _ ▸ ht)
      | stir => exact hashCommand_reads (s := s.capture q) (exec_stir _ ▸ ht)
      | _ => cases hf
    · obtain ⟨answer, he⟩ := exec_primitive hf
      rw [he] at ht
      injection ht with ht
      exact .of_none (ht ▸ rfl)

theorem accept_reads (s : State) (q : Request) : (s.accept q).reads = s.reads := by
  rcases accept_cases s q with ⟨-, e⟩ | ⟨i, -, -, -, e⟩ | ⟨i, -, -, e⟩ <;> rw [e] <;> rfl

/-! ## Every step -/

/-- Settles O58: of all moves only a phase of a busy hasher and a whole command of an idle one read. -/
theorem readsStayInsideTheMessage : Obligations.ReadsStayInsideTheMessage := by
  intro s t h ht
  have nothing (e : t.reads = s.reads) : ∃ new, t.reads = s.reads ++ new ∧ ∀ x ∈ new,
      (s.phase ≠ .idle → inMessage s.regs.captured x.1 = true ∧ some x.2 ∈ s.answers x.1) ∧
      (s.phase = .idle → s.mem.read x.1 = some x.2 ∧ ∃ q, s.request = some q ∧ inMessage q x.1 = true) :=
    ⟨[], by simp [e], by simp⟩
  rcases step_cases ht with ⟨fine, rest, -, hm⟩ | ⟨q, rest, -, -, rfl⟩ | ⟨p, rest, -, -, rfl⟩ | ⟨rest, -, rfl⟩ |
    ⟨a, b, rest, -, rfl⟩ | ⟨a, rest, -, rfl⟩
  · rcases hasherMove_cases fine { s with turns := rest } with ⟨hb, e⟩ | ⟨hp, -, q, hq, e⟩ | ⟨-, -, e⟩ <;>
      rw [e] at hm
    · obtain ⟨i, c⟩ := (h.withTurns rest).command hb
      obtain ⟨new, hreads, hnew⟩ := c.phaseStep_reads hm
      refine ⟨new, hreads, fun x hx => ⟨fun _ => ?_, fun hp => absurd hp hb⟩⟩
      obtain ⟨hin, hsample⟩ := hnew x hx
      exact ⟨hin, hsample ▸ s.sample_mem_answers x.1⟩
    · cases fine with
      | true =>
        injection hm with hm
        exact nothing (hm ▸ accept_reads _ q)
      | false =>
        obtain ⟨new, hreads, hnew⟩ := runCommand_reads hm
        refine ⟨new, hreads, fun x hx => ⟨fun hb => absurd hp hb, fun _ => ?_⟩⟩
        obtain ⟨hin, hread⟩ := hnew x hx
        exact ⟨hread, q, hq, hin⟩
    · injection hm with hm
      exact nothing (hm ▸ rfl)
  · exact nothing rfl
  · exact nothing rfl
  · exact nothing rfl
  · exact nothing (State.hostWrite_reads _ a b)
  · exact nothing (State.hostUnmap_reads _ a)

end Sys2Proof.Machine
end

section
/-! PROOFS. A hash command that runs phase by phase while the host writes (20_memory.md R54, R42; 60_exceptions.md
R163, R165). The invariant of the run: the bytes read so far are of the message, each one its address gave during
the command, and with any bytes for the rest of it the command answers as its rule does on the whole. -/

namespace Sys2Proof.Machine

/-! ## What the run has read, and how it ends -/

/-- How a hash command ends, by its request, the reads made and the response, when the addresses gave the answers
`A` during the command. -/
def EndsAs (A : Word64 → Option Byte → Prop) (i : Instr) (q : Request) (before reads : List (Word64 × Byte))
    (p : Response) : Prop :=
  (rangeFits q → ∃ msg, reads = before ++ messageReads q.addr msg ∧ BytesAnswered A q.addr msg ∧
    ((msg.length = q.len.toNat ∧ p.err = 0 ∧ hashAnswer i q msg = some p) ∨
      (msg.length < q.len.toNat ∧
        p = { err := 3, digest := none, digest2 := none, info := some (q.addr + BitVec.ofNat 64 msg.length) } ∧
        A (q.addr + BitVec.ofNat 64 msg.length) none))) ∧
  (¬ rangeFits q → reads = before ∧ p = { err := 2, digest := none, digest2 := none, info := some q.addr })

/-- The command has read `msg` of its message: nothing before INIT has run, then all up to the cursor; and whatever
bytes are still to come, its answer will be the rule's for the whole. -/
def State.HasRead (s : State) (i : Instr) (msg : List Byte) : Prop :=
  if s.phase = .init then msg = []
  else msg.length = s.regs.pos.toNat ∧ ∀ later, msg.length + later.length = s.regs.captured.len.toNat →
    hashAnswer i s.regs.captured (msg ++ later) = some (restAnswer Config.build i s.regs s.phase later)

theorem State.hasRead_init {s : State} {i : Instr} {msg : List Byte} (hp : s.phase = .init) :
    s.HasRead i msg ↔ msg = [] := by
  rw [State.HasRead, if_pos hp]

theorem State.hasRead_pastInit {s : State} {i : Instr} {msg : List Byte} (hi : s.phase ≠ .init) :
    s.HasRead i msg ↔
      msg.length = s.regs.pos.toNat ∧ ∀ later, msg.length + later.length = s.regs.captured.len.toNat →
        hashAnswer i s.regs.captured (msg ++ later) = some (restAnswer Config.build i s.regs s.phase later) := by
  rw [State.HasRead, if_neg hi]

/-- The command of the request is in progress; what is kept of earlier answers, and the bytes read, are among the
answers `A`. -/
structure Running (A : Word64 → Option Byte → Prop) (i : Instr) (q : Request) (before : List (Word64 × Byte))
    (s : State) : Prop where
  inProgress : CommandInProgress s i
  captured : s.regs.captured = q
  noResponse : s.response = none
  held : ∀ x ∈ s.held, A x.1 x.2
  read : ∃ msg, s.reads = before ++ messageReads q.addr msg ∧ BytesAnswered A q.addr msg ∧ s.HasRead i msg

/-- The command has ended, and its response waits. -/
structure Ended (A : Word64 → Option Byte → Prop) (i : Instr) (q : Request) (before : List (Word64 × Byte))
    (s : State) : Prop where
  idle : s.phase = .idle
  response : ∃ p, s.response = some p ∧ EndsAs A i q before s.reads p

section
variable {A B : Word64 → Option Byte → Prop} {i : Instr} {q : Request} {before : List (Word64 × Byte)} {s t : State}

theorem Running.mono (h : Running A i q before s) (hAB : ∀ x r, A x r → B x r) : Running B i q before s where
  inProgress := h.inProgress
  captured := h.captured
  noResponse := h.noResponse
  held := fun x hx => hAB _ _ (h.held x hx)
  read := h.read.imp fun _ ⟨hr, hb, hm⟩ => ⟨hr, hb.mono hAB, hm⟩

theorem Ended.mono (h : Ended A i q before s) (hAB : ∀ x r, A x r → B x r) : Ended B i q before s where
  idle := h.idle
  response := by
    obtain ⟨p, hp, hfits, hwraps⟩ := h.response
    refine ⟨p, hp, fun hq => ?_, hwraps⟩
    obtain ⟨msg, hr, hb, hend⟩ := hfits hq
    exact ⟨msg, hr, hb.mono hAB, hend.imp_right fun ⟨hl, he, ha⟩ => ⟨hl, he, hAB _ _ ha⟩⟩

/-- The run does not depend on the request channel, the moves to come or memory, but for the answers kept. -/
theorem Running.congr (h : Running A i q before s) (hp : t.phase = s.phase) (hr : t.regs = s.regs)
    (hresp : t.response = s.response) (hreads : t.reads = s.reads) (hh : ∀ x ∈ t.held, A x.1 x.2) :
    Running A i q before t where
  inProgress := h.inProgress.congr hr hp
  captured := hr ▸ h.captured
  noResponse := hresp.trans h.noResponse
  held := hh
  read := by
    obtain ⟨msg, hmsg, hb, hm⟩ := h.read
    exact ⟨msg, hreads.trans hmsg, hb, by rwa [State.HasRead, hp, hr]⟩

theorem Ended.congr (h : Ended A i q before s) (hp : t.phase = s.phase) (hresp : t.response = s.response)
    (hreads : t.reads = s.reads) : Ended A i q before t where
  idle := hp.trans h.idle
  response := by rw [hresp, hreads]; exact h.response

end

/-! ## One phase of the run -/

theorem addrWraps_eq_false_iff {q : Request} : addrWraps q = false ↔ rangeFits q := by
  simp [addrWraps, rangeFits, Classical.or_iff_not_imp_left]

/-- A byte read gets one of the answers, when they have what memory answers now and what is kept. -/
theorem State.sample_answered {A : Word64 → Option Byte → Prop} {s : State} (hheld : ∀ x ∈ s.held, A x.1 x.2)
    (hmem : ∀ a, A a (s.mem.read a)) (a : Word64) : A a (s.sample a) := by
  rcases List.mem_cons.1 (s.sample_mem_answers a) with e | e
  · exact e ▸ hmem a
  · obtain ⟨⟨x, r⟩, hx, hr⟩ := List.mem_map.1 e
    obtain ⟨hxs, hxa⟩ := List.mem_filter.1 hx
    obtain rfl : x = a := by simpa using hxa
    exact hr ▸ hheld _ hxs

section
variable {A : Word64 → Option Byte → Prop} {i : Instr} {q : Request} {before : List (Word64 × Byte)} {s t : State}

theorem Running.rangeFits (h : Running A i q before s) (hf : i.format = .h) : rangeFits q :=
  addrWraps_eq_false_iff.1 (h.captured ▸ h.inProgress.range hf)

/-- INIT reads nothing and sets the rest to be the whole. -/
theorem Running.init (h : Running A i q before s) (hf : i.format = .h) (hp : s.phase = .init) {n : Nat}
    {write : List Byte → Regs} (hw : hashWork Config.build i s.regs s.phase = .read n write) :
    n = 0 ∧ Running A i q before (s.advance i (write [])) := by
  obtain ⟨hn, hwrites⟩ := hashWork_writes hw
  have w := hwrites []
  have hpos : (write []).pos = 0 := by rw [w.pos, if_pos hp]
  obtain ⟨msg, hreads, hb, hm⟩ := h.read
  obtain rfl := (State.hasRead_init hp).1 hm
  refine ⟨by rw [hn, hp]; cases i <;> rfl, ?_⟩
  exact {
    inProgress := h.inProgress.advance hf (by simp [hp]) hn w
    captured := w.captured.trans h.captured
    noResponse := h.noResponse
    held := h.held
    read := by
      refine ⟨[], hreads, hb, (State.hasRead_pastInit (nextPhase_ne_init _ _ _ _)).2 ⟨by simp [hpos], ?_⟩⟩
      intro later hl
      simp only [State.advance_regs, State.advance_phase, w.captured, hpos, hp] at hl ⊢
      exact hashAnswer_eq_restAnswer (hp ▸ hw) (by simpa using hl) }

/-- A phase after INIT that reads its bytes has read that much more. -/
theorem Running.advance (h : Running A i q before s) (hf : i.format = .h) (hi : s.phase ≠ .init)
    (hfin : s.phase ≠ .final) {write : List Byte → Regs} {bs msg : List Byte}
    (hw : hashWork Config.build i s.regs s.phase = .read bs.length write)
    (hreads : s.reads = before ++ messageReads q.addr msg) (hmsg : s.HasRead i msg)
    (hcur : s.cursorAddress = q.addr + BitVec.ofNat 64 msg.length) (hb : BytesAnswered A q.addr (msg ++ bs)) :
    Running A i q before ((s.logReads (messageReads s.cursorAddress bs)).advance i (write bs)) := by
  obtain ⟨hn, hwrites⟩ := hashWork_writes hw
  have w := hwrites bs
  have hpos := w.pos_toNat hn hf h.inProgress.cursor
  rw [cursorAfter_of_ne_init hi, ← hn] at hpos
  obtain ⟨hl, hrest⟩ := (State.hasRead_pastInit hi).1 hmsg
  exact {
    inProgress := (h.inProgress.advance hf hfin hn w).congr rfl rfl
    captured := w.captured.trans h.captured
    noResponse := h.noResponse
    held := h.held
    read := by
      refine ⟨msg ++ bs, ?_, hb, ?_⟩
      · simp [hreads, hcur, messageReads_append]
      · refine (State.hasRead_pastInit (nextPhase_ne_init _ _ _ _)).2 ?_
        simp only [State.advance_regs, State.advance_phase, State.logReads_phase, w.captured, hpos,
          List.length_append, hl, true_and]
        intro later hlater
        rw [List.append_assoc, hrest (bs ++ later) (by simpa [hl, Nat.add_assoc] using hlater)]
        exact congrArg some (restAnswer_next hw hi h.inProgress.cursor hpos rfl (by omega)).symm }

/-- A phase step of the run goes on, or ends the command as it should. -/
theorem Running.phaseStep (h : Running A i q before s) (hf : i.format = .h) (hmem : ∀ a, A a (s.mem.read a))
    (ht : phaseStep Config.build s = .next t) : Running A i q before t ∨ Ended A i q before t := by
  obtain ⟨msg, hreads, hb, hmsg⟩ := h.read
  rcases h.inProgress.hashStep_cases hf ht with ⟨hfin, p, hp, rfl⟩ | ⟨hfin, n, write, bs, hw, hbs, hend⟩
  · obtain ⟨hl, hrest⟩ := (State.hasRead_pastInit (by simp [hfin])).1 hmsg
    rw [hfin] at hrest
    have hlen : msg.length = s.regs.captured.len.toNat := hl.trans (cursorOk_final hf (hfin ▸ h.inProgress.cursor))
    have hanswer : hashAnswer i q msg = some p := by
      simpa [h.captured, restAnswer_final hp] using hrest [] (by simpa using hlen)
    exact .inr ⟨rfl, p, rfl, fun _ => ⟨msg, hreads, hb, .inl ⟨h.captured ▸ hlen, hashAnswer_err hanswer, hanswer⟩⟩,
      fun hq => absurd (h.rangeFits hf) hq⟩
  · by_cases hi : s.phase = .init
    · obtain ⟨rfl, hrun⟩ := h.init hf hi hw
      rcases hend with ⟨hl, rfl⟩ | ⟨hl, -, -⟩
      · obtain rfl := List.eq_nil_of_length_eq_zero hl
        rw [messageReads, State.logReads_nil]
        exact .inl hrun
      · exact absurd hl (Nat.not_lt_zero _)
    · obtain ⟨hl, -⟩ := (State.hasRead_pastInit hi).1 hmsg
      have hcur : s.cursorAddress = q.addr + BitVec.ofNat 64 msg.length := by
        rw [State.cursorAddress, h.captured, hl, BitVec.ofNat_toNat, BitVec.setWidth_eq]
      have hsample := s.sample_answered h.held hmem
      have hball : BytesAnswered A q.addr (msg ++ bs) :=
        hb.append (hcur ▸ (holdsMessage_iff.1 hbs).mono fun x r e => e ▸ hsample x)
      rcases hend with ⟨rfl, rfl⟩ | ⟨hlt, hnone, rfl⟩
      · exact .inl (h.advance hf hi hfin hw hreads hmsg hcur hball)
      · have hstop : s.cursorAddress + BitVec.ofNat 64 bs.length = q.addr + BitVec.ofNat 64 (msg ++ bs).length := by
          rw [hcur, List.length_append, BitVec.ofNat_add, BitVec.add_assoc]
        have hfits : (msg ++ bs).length < q.len.toNat := by
          have := h.inProgress.read_fits hf hw
          rw [List.length_append, ← h.captured]
          omega
        refine .inr ⟨rfl, _, rfl, fun _ => ⟨msg ++ bs, ?_, hball, .inr ⟨hfits, by rw [hstop]; rfl, ?_⟩⟩,
          fun hq => absurd (h.rangeFits hf) hq⟩
        · simp [hreads, hcur, messageReads_append]
        · rw [← hstop, ← hnone]
          exact hsample _

end

/-! ## One step of the run -/

theorem hasherMove_turns {s t : State} {fine : Bool} (h : hasherMove fine s = .next t) : t.turns = s.turns := by
  rcases hasherMove_cases fine s with ⟨-, e⟩ | ⟨-, -, q, -, e⟩ | ⟨-, -, e⟩ <;> rw [e] at h
  · rcases phaseStep_cases h with ⟨_, _, _, rfl⟩ | ⟨_, _, _, -, rfl⟩ <;> rfl
  · cases fine with
    | true =>
      injection h with h
      subst h
      rcases accept_cases s q with ⟨-, e⟩ | ⟨i, -, -, -, e⟩ | ⟨i, -, -, e⟩ <;> rw [e] <;> rfl
    | false => exact runCommand_turns h
  · injection h with h
    rw [h]

/-- A step adds no move to those to come. -/
theorem step_turns_subset {s t : State} (h : step s = .next t) : t.turns ⊆ s.turns := by
  rcases step_cases h with ⟨fine, rest, hrest, hm⟩ | ⟨q, rest, e, -, rfl⟩ | ⟨p, rest, e, -, rfl⟩ | ⟨rest, e, rfl⟩ |
    ⟨a, b, rest, e, rfl⟩ | ⟨a, rest, e, rfl⟩
  · rw [hasherMove_turns hm]
    rcases hrest with rfl | ⟨x, e⟩
    · exact List.Subset.refl _
    · exact e ▸ List.subset_cons_self ..
  · exact e ▸ List.subset_cons_self ..
  · exact e ▸ List.subset_cons_self ..
  · exact e ▸ List.subset_cons_self ..
  · simp [e]
  · simp [e]

section
variable {A : Word64 → Option Byte → Prop} {i : Instr} {q : Request} {before : List (Word64 × Byte)} {s t : State}

/-- An answer kept when it changes in flight is the one memory gave. -/
theorem Running.hold_held (h : Running A i q before s) (hmem : ∀ a, A a (s.mem.read a)) (a : Word64) :
    ∀ x ∈ (s.hold a).held, A x.1 x.2 := by
  rw [State.hold_held]
  split
  case isTrue => exact List.forall_mem_cons.2 ⟨hmem a, h.held⟩
  case isFalse => exact h.held

/-- A step of the run, of whichever agent, but for a take or a reset. -/
theorem Running.step (h : Running A i q before s) (hf : i.format = .h) (hmem : ∀ a, A a (s.mem.read a))
    (hreset : .reset ∉ s.turns) (ht : step s = .next t) : Running A i q before t ∨ Ended A i q before t := by
  have withTurns (rest : List Turn) : Running A i q before { s with turns := rest } := h.congr rfl rfl rfl rfl h.held
  rcases step_cases ht with ⟨fine, rest, -, hm⟩ | ⟨q, rest, -, -, rfl⟩ | ⟨p, rest, -, hp, -⟩ | ⟨rest, e, -⟩ |
    ⟨a, b, rest, -, rfl⟩ | ⟨a, rest, -, rfl⟩
  · rw [hasherMove_busy (s := { s with turns := rest }) h.inProgress.busy] at hm
    exact (withTurns rest).phaseStep hf hmem hm
  · exact .inl (h.congr rfl rfl rfl rfl h.held)
  · cases h.noResponse.symm.trans hp
  · exact absurd (e ▸ List.mem_cons_self) hreset
  · exact .inl ((withTurns rest).congr (by simp) (by simp) (by simp) (by simp) ((withTurns rest).hold_held hmem a))
  · exact .inl ((withTurns rest).congr (by simp) (by simp) (by simp) (by simp) ((withTurns rest).hold_held hmem a))

/-- Once a response waits, nothing but a take or a reset changes it. -/
theorem Ended.step (h : Ended A i q before s) (htake : .take ∉ s.turns) (hreset : .reset ∉ s.turns)
    (ht : step s = .next t) : Ended A i q before t := by
  obtain ⟨p, hp, -⟩ := h.response
  rcases step_cases ht with ⟨fine, rest, -, hm⟩ | ⟨q, rest, -, -, rfl⟩ | ⟨p, rest, e, -, -⟩ | ⟨rest, e, -⟩ |
    ⟨a, b, rest, -, rfl⟩ | ⟨a, rest, -, rfl⟩
  · rcases hasherMove_cases fine { s with turns := rest } with ⟨hb, -⟩ | ⟨-, hr, -⟩ | ⟨-, -, e⟩
    · exact absurd h.idle hb
    · cases hp.symm.trans hr
    · rw [e] at hm
      injection hm with hm
      exact hm ▸ h.congr rfl rfl rfl
  · exact h.congr rfl rfl rfl
  · exact absurd (e ▸ List.mem_cons_self) htake
  · exact absurd (e ▸ List.mem_cons_self) hreset
  · exact h.congr (by simp) (by simp) (by simp)
  · exact h.congr (by simp) (by simp) (by simp)

/-- Acceptance ends the command at once where the range wraps, and starts the run where it does not. -/
theorem accept_running_or_ended (hd : decode q.cmd = .ok i) (hf : i.format = .h) (hr : s.response = none) :
    Running A i q s.reads (s.accept q) ∨ Ended A i q s.reads (s.accept q) := by
  rcases accept_cases s q with ⟨⟨x, hx⟩, -⟩ | ⟨j, hj, -, hw, e⟩ | ⟨j, hj, hw, e⟩
  · cases hd.symm.trans hx
  · have hwraps : ¬ rangeFits q := fun hq => by simp [addrWraps_eq_false_iff.2 hq] at hw
    rw [e]
    exact .inr ⟨rfl, _, rfl, fun hq => absurd hq hwraps, fun _ => ⟨rfl, rfl⟩⟩
  · obtain rfl : i = j := Except.ok.inj (hd.symm.trans hj)
    have hinit : firstPhase i = .init := if_pos hf
    rw [e]
    exact .inl ⟨.of_accept hd hw, rfl, hr, fun x hx => (nomatch hx),
      ⟨[], (List.append_nil _).symm, .nil, (State.hasRead_init hinit).2 rfl⟩⟩

end

/-! ## The run -/

theorem run_succ_iff {s t : State} {k : Nat} : Sys2Proof.core.run (k + 1) s = .next t ↔
    ∃ u, step s = .next u ∧ Sys2Proof.core.run k u = .next t := by
  have hcore : Sys2Proof.core.step s = step s := rfl
  cases hs : step s with
  | next u => rw [run_succ hs]; simp
  | fault r => simp [Host.Core.run, hcore, hs]
  | refused r => simp [Host.Core.run, hcore, hs]

/-- The last step of a run, apart. -/
theorem run_succ_last {t : State} : ∀ {k : Nat} {s : State}, Sys2Proof.core.run (k + 1) s = .next t →
    ∃ u, Sys2Proof.core.run k s = .next u ∧ step u = .next t
  | 0, s, h => by
    obtain ⟨u, hs, hu⟩ := run_succ_iff.1 h
    cases hu
    exact ⟨s, rfl, hs⟩
  | k + 1, s, h => by
    obtain ⟨u, hs, hu⟩ := run_succ_iff.1 h
    obtain ⟨v, hv, hvt⟩ := run_succ_last hu
    exact ⟨v, run_succ_iff.2 ⟨u, hs, hv⟩, hvt⟩

theorem AnsweredDuring.mono {s : State} {n m : Nat} (hnm : n ≤ m) {a : Word64} {r : Option Byte}
    (h : AnsweredDuring s n a r) : AnsweredDuring s m a r := by
  obtain ⟨j, u, hj, hu⟩ := h
  exact ⟨j, u, by omega, hu⟩

/-- Every state of the run after acceptance is of the command running, or ended. -/
theorem running_or_ended_of_run {s : State} {q : Request} {i : Instr} {moves : List Turn} (hp : s.phase = .idle)
    (hr : s.response = none) (hq : s.request = some q) (hd : decode q.cmd = .ok i) (hf : i.format = .h)
    (hturns : s.turns = .phase :: moves) (htake : .take ∉ moves) (hreset : .reset ∉ moves) :
    ∀ (n : Nat) {t : State}, Sys2Proof.core.run (n + 1) s = .next t →
    (Running (AnsweredDuring s (n + 1)) i q s.reads t ∨ Ended (AnsweredDuring s (n + 1)) i q s.reads t) ∧
      .take ∉ t.turns ∧ .reset ∉ t.turns
  | 0, t, h => by
    have hstep : step s = .next (State.accept { s with turns := moves } q) := by
      simp [step, hturns, turnMove, hasherMove, hp, hr, hq]
    obtain ⟨u, hu, hut⟩ := run_succ_last h
    cases hu
    obtain rfl : State.accept { s with turns := moves } q = t := by simpa using hstep.symm.trans hut
    refine ⟨accept_running_or_ended (s := { s with turns := moves }) hd hf hr, ?_⟩
    rw [State.accept_turns]
    exact ⟨htake, hreset⟩
  | n + 1, t, h => by
    obtain ⟨u, hu, hut⟩ := run_succ_last h
    obtain ⟨hrun, htake', hreset'⟩ :=
      running_or_ended_of_run hp hr hq hd hf hturns htake hreset n hu
    have hmono (x : Word64) (r : Option Byte) (ha : AnsweredDuring s (n + 1) x r) : AnsweredDuring s (n + 2) x r :=
      ha.mono (Nat.le_succ _)
    have hsub := step_turns_subset hut
    refine ⟨?_, fun hx => htake' (hsub hx), fun hx => hreset' (hsub hx)⟩
    rcases hrun with hrun | hend
    · exact (hrun.mono hmono).step hf (fun a => ⟨n + 1, u, Nat.lt_succ_self _, hu, hrun.inProgress.busy, rfl⟩)
        hreset' hut
    · exact .inr ((hend.mono hmono).step htake' hreset' hut)

/-- Settles O59: a response waits only where the run has ended. -/
theorem responseIsDigestOfBytesHeld : Obligations.ResponseIsDigestOfBytesHeld := by
  intro s t q i moves n p hp hr hq hd hf hturns htake hreset hrun hresp
  cases n with
  | zero =>
    cases hrun
    cases hr.symm.trans hresp
  | succ n =>
    obtain ⟨hstate, -, -⟩ := running_or_ended_of_run hp hr hq hd hf hturns htake hreset n hrun
    rcases hstate with hgoes | ⟨-, p', hp', hends⟩
    · cases hgoes.noResponse.symm.trans hresp
    · obtain rfl : p = p' := Option.some.inj (hresp.symm.trans hp')
      exact hends

end Sys2Proof.Machine
end

section
/-! PROOFS. The command byte (30_encoding.md R60, R62, R66, R71 to R73): its fields as numbers, what the decoder can
do with a byte, and that a byte decodes to a command exactly when it is the command's byte. -/

namespace Sys2Proof

open Machine

/-! ## The fields of a byte (30_encoding.md R60) -/

section
variable (c : Byte)

theorem cmdFields_op_toNat : (cmdFields c).op.toNat = c.toNat % 16 := by
  simp [cmdFields, BitVec.extractLsb'_toNat]

theorem cmdFields_dual : (cmdFields c).dual = decide (c.toNat / 16 % 2 = 1) := by
  simp [cmdFields, BitVec.getLsbD, Nat.testBit_eq_decide_div_mod_eq]

theorem cmdFields_rsv_eq_zero : (cmdFields c).rsv = 0#3 ↔ c.toNat / 32 = 0 := by
  have hc : c.toNat < 256 := c.isLt
  have hrsv : (cmdFields c).rsv.toNat = c.toNat / 32 % 8 := by
    simp [cmdFields, BitVec.extractLsb'_toNat, Nat.shiftRight_eq_div_pow]
  rw [← BitVec.toNat_inj, hrsv, BitVec.toNat_ofNat]
  omega

end

/-! ## The byte of a command, by field -/

theorem encode_toNat_lt (i : Instr) : (encode i).toNat < 32 := by
  cases i with
  | shake64 dual => cases dual <;> decide
  | _ => decide

/-- Only `shake64.d` has the DUAL bit. -/
theorem encode_toNat_dual (i : Instr) : (encode i).toNat / 16 = 1 ↔ i = .shake64 true := by
  cases i with
  | shake64 dual => cases dual <;> decide
  | _ => decide

/-! ## The lookup of `OP` (30_encoding.md R62) -/

/-- The codes with a row in the opcode map. -/
abbrev opCodes : List Nat := [1, 2, 3, 4, 5, 6, 7, 8, 10, 11]

/-- The lookup fails outside the ten codes; else it finds the command with that code, which for SHAKE64 has the
DUAL bit. -/
theorem rowOf_cases (op : BitVec 4) (dual : Bool) :
    (op.toNat ∉ opCodes ∧ rowOf op dual = none) ∨
    (op.toNat ∈ opCodes ∧ ∃ i, rowOf op dual = some i ∧
      (encode i).toNat % 16 = op.toNat ∧ (op.toNat = 2 → i = .shake64 dual)) := by
  unfold rowOf
  split
  case h_2 h => exact .inr ⟨by simp [opCodes, h], _, rfl, by cases dual <;> exact h.symm, fun _ => rfl⟩
  case h_11 =>
    refine .inl ⟨?_, rfl⟩
    simp only [opCodes, List.mem_cons, List.not_mem_nil, or_false, not_or]
    grind
  all_goals next h => exact .inr ⟨by simp [opCodes, h], _, rfl, h.symm, by omega⟩

/-! ## The decoder (30_encoding.md R73) -/

theorem refusesDual_iff (c : Byte) : ((cmdFields c).dual = true ∧ ¬ (cmdFields c).op = 2#4) ↔
    (c.toNat / 16 % 2 = 1 ∧ c.toNat % 16 ≠ 2) := by
  rw [cmdFields_dual, decide_eq_true_iff, ← BitVec.toNat_inj, cmdFields_op_toNat]
  rfl

/-- A byte whose fields are a command's is the command's byte. -/
theorem encode_eq_of_fields {c : Byte} {i : Instr} (hrsv : c.toNat / 32 = 0)
    (hop : (encode i).toNat % 16 = c.toNat % 16) (hdual : i = .shake64 true ↔ c.toNat / 16 % 2 = 1) :
    encode i = c := by
  have hlt := encode_toNat_lt i
  rw [← encode_toNat_dual] at hdual
  exact BitVec.eq_of_toNat_eq (by omega)

/-- Decoding a byte, in the order of its three checks; a byte that passes them is that of the command found. -/
theorem decode_cases (c : Byte) :
    (c.toNat / 32 ≠ 0 ∧ decode c = .error .rsvNotZero) ∨
    (c.toNat / 32 = 0 ∧ c.toNat % 16 ∉ opCodes ∧ decode c = .error .noSuchOperation) ∨
    (c.toNat / 32 = 0 ∧ c.toNat % 16 ∈ opCodes ∧ (c.toNat / 16 % 2 = 1 ∧ c.toNat % 16 ≠ 2) ∧
      decode c = .error .dualNotShake64) ∨
    (c.toNat / 32 = 0 ∧ c.toNat % 16 ∈ opCodes ∧ ¬ (c.toNat / 16 % 2 = 1 ∧ c.toNat % 16 ≠ 2) ∧
      ∃ i, decode c = .ok i ∧ encode i = c) := by
  by_cases hrsv : c.toNat / 32 = 0
  · refine .inr ?_
    have hzero := (cmdFields_rsv_eq_zero c).mpr hrsv
    have hlook := rowOf_cases (cmdFields c).op (cmdFields c).dual
    rw [cmdFields_op_toNat] at hlook
    rcases hlook with ⟨hop, hrow⟩ | ⟨hop, i, hrow, hcode, hshake⟩
    · exact .inl ⟨hrsv, hop, by simp [decode, hzero, hrow]⟩
    · refine .inr ?_
      by_cases hd : c.toNat / 16 % 2 = 1 ∧ c.toNat % 16 ≠ 2
      · exact .inl ⟨hrsv, hop, hd, by simp [decode, hzero, hrow, refusesDual_iff, hd]⟩
      · have hdual : i = .shake64 true ↔ c.toNat / 16 % 2 = 1 := by
          by_cases h2 : c.toNat % 16 = 2
          · rw [hshake h2, cmdFields_dual]
            simp
          · exact iff_of_false (fun h => h2 (by rw [← hcode, h]; rfl)) fun hb => hd ⟨hb, h2⟩
        exact .inr ⟨hrsv, hop, hd, i, by simp [decode, hzero, hrow, refusesDual_iff, hd],
          encode_eq_of_fields hrsv hcode hdual⟩
  · exact .inl ⟨hrsv, by simp [decode, cmdFields_rsv_eq_zero, hrsv]⟩

theorem decode_encode (i : Instr) : decode (encode i) = .ok i := by
  cases i with
  | shake64 dual => cases dual <;> rfl
  | _ => rfl

/-- A byte decodes to a command exactly when it is the command's byte. -/
theorem decode_eq_ok_iff {c : Byte} {i : Instr} : decode c = .ok i ↔ encode i = c := by
  refine ⟨fun h => ?_, fun h => h ▸ decode_encode i⟩
  rcases decode_cases c with ⟨-, hd⟩ | ⟨-, -, hd⟩ | ⟨-, -, -, hd⟩ | ⟨-, -, -, j, hd, hj⟩ <;> cases hd.symm.trans h
  exact hj

/-! ## The opcode map as the spec prints it (30_encoding.md R62) -/

/-- The row of a command in the opcode map selects its byte. -/
theorem row_of_command (i : Instr) :
    ∃ r ∈ opRows, r.selects (encode i) = true ∧ r.mnemonic = i.mnemonic ∧ r.format = i.format := by
  have legal : Laws.LegalEncoding.Statement i := by
    cases i with
    | shake32 => exact Laws.LegalEncoding.shake32
    | shake64 dual => exact Laws.LegalEncoding.shake64 dual
    | stir => exact Laws.LegalEncoding.stir
    | rotl32 => exact Laws.LegalEncoding.rotl32
    | combine32 => exact Laws.LegalEncoding.combine32
    | mix32 => exact Laws.LegalEncoding.mix32
    | scramble32 => exact Laws.LegalEncoding.scramble32
    | rotl64 => exact Laws.LegalEncoding.rotl64
    | mix64 => exact Laws.LegalEncoding.mix64
    | scramble64 => exact Laws.LegalEncoding.scramble64
  exact legal.2

/-- A row with a full mask selects its pattern alone. -/
theorem selects_fullMask {m : String} {p c : Byte} {f : Format} (h : OpRow.selects ⟨m, p, 0xFF, f⟩ c = true) :
    c = p := by
  have hmask : c &&& 0xFF#8 = p := by simpa [OpRow.selects] using h
  rw [← hmask]
  exact (BitVec.and_allOnes (x := c)).symm

/-- SHAKE64's mask leaves out the DUAL bit, so the row selects two bytes. -/
theorem selects_shake64 {c : Byte} (h : OpRow.selects ⟨"SHAKE64", 0x02, 0xEF, .h⟩ c = true) :
    ∃ dual, encode (.shake64 dual) = c := by
  revert c
  decide

/-- A row selects only bytes of commands with its mnemonic and format. -/
theorem command_of_row {r : OpRow} {c : Byte} (hr : r ∈ opRows) (h : r.selects c = true) :
    ∃ i, encode i = c ∧ i.mnemonic = r.mnemonic ∧ i.format = r.format := by
  simp only [opRows, List.mem_cons, List.not_mem_nil, or_false] at hr
  rcases hr with rfl | rfl | rfl | rfl | rfl | rfl | rfl | rfl | rfl | rfl
  · exact ⟨.shake32, (selects_fullMask h).symm, rfl, rfl⟩
  · obtain ⟨dual, hc⟩ := selects_shake64 h
    exact ⟨.shake64 dual, hc, rfl, rfl⟩
  · exact ⟨.stir, (selects_fullMask h).symm, rfl, rfl⟩
  · exact ⟨.rotl32, (selects_fullMask h).symm, rfl, rfl⟩
  · exact ⟨.combine32, (selects_fullMask h).symm, rfl, rfl⟩
  · exact ⟨.mix32, (selects_fullMask h).symm, rfl, rfl⟩
  · exact ⟨.scramble32, (selects_fullMask h).symm, rfl, rfl⟩
  · exact ⟨.rotl64, (selects_fullMask h).symm, rfl, rfl⟩
  · exact ⟨.mix64, (selects_fullMask h).symm, rfl, rfl⟩
  · exact ⟨.scramble64, (selects_fullMask h).symm, rfl, rfl⟩

/-- No two rows of the opcode map have the same mnemonic. -/
theorem opRows_mnemonic_injective : ∀ r ∈ opRows, ∀ r' ∈ opRows, r.mnemonic = r'.mnemonic → r = r' := by
  decide

/-- Every row's mask keeps the bits of `OP`. -/
theorem pattern_op_of_selects {r : OpRow} {c : Byte} (hr : r ∈ opRows) (h : r.selects c = true) :
    r.pattern.toNat % 16 = c.toNat % 16 := by
  have hmask : ∀ r ∈ opRows, r.mask.toNat % 2 ^ 4 = 2 ^ 4 - 1 := by decide
  have hc : c &&& r.mask = r.pattern := by simpa [OpRow.selects] using h
  calc r.pattern.toNat % 2 ^ 4 = (c.toNat &&& r.mask.toNat) % 2 ^ 4 := by rw [← hc, BitVec.toNat_and]
    _ = c.toNat % 2 ^ 4 := by rw [Nat.and_mod_two_pow, hmask r hr, Nat.and_two_pow_sub_one_eq_mod, Nat.mod_mod]

/-! ## The legal bytes (30_encoding.md R66) -/

theorem legalBytes_eq_encode : legalBytes = [Instr.shake32, .shake64 false, .stir, .rotl32, .combine32, .mix32,
    .scramble32, .rotl64, .mix64, .scramble64, .shake64 true].map encode := rfl

/-- The legal bytes are those of the commands. -/
theorem mem_legalBytes_iff {c : Byte} : c ∈ legalBytes ↔ ∃ i, encode i = c := by
  rw [legalBytes_eq_encode, List.mem_map]
  refine ⟨fun ⟨i, _, hi⟩ => ⟨i, hi⟩, fun ⟨i, hi⟩ => ⟨i, ?_, hi⟩⟩
  cases i with
  | shake64 dual => cases dual <;> simp
  | _ => simp

/-- The machine's list of legal bytes is the decoder's. -/
theorem decodes_iff_legal (c : Byte) : (∃ i, decode c = .ok i) ↔ c ∈ legalBytes := by
  simp only [mem_legalBytes_iff, decode_eq_ok_iff]

theorem decode_error_of_not_legal {c : Byte} (h : c ∉ legalBytes) : ∃ e, decode c = .error e := by
  cases hd : decode c with
  | error e => exact ⟨e, rfl⟩
  | ok i => exact absurd ((decodes_iff_legal c).mp ⟨i, hd⟩) h

/-! ## The statements about the byte -/

/-- Settles O1. -/
theorem decodeOfEncode : Obligations.DecodeOfEncode := decode_encode

/-- Settles O2. -/
theorem encodeOfDecode : Obligations.EncodeOfDecode := fun _ _ => decode_eq_ok_iff.mp

/-- Settles O3: each byte is the encoder's for its command. -/
theorem specBytesDecode : Obligations.SpecBytesDecode :=
  ⟨decode_encode .shake32, decode_encode (.shake64 false), decode_encode (.shake64 true), decode_encode .stir,
    decode_encode .combine32, decode_encode .scramble64⟩

/-- Settles O4: the four ends of the decoder are the four branches. -/
theorem decodeOrder : Obligations.DecodeOrder := by
  intro c
  rcases decode_cases c with ⟨hrsv, hd⟩ | ⟨hrsv, hop, hd⟩ | ⟨hrsv, hop, hdual, hd⟩ | ⟨hrsv, hop, hdual, i, hd, hi⟩
  · rwa [if_pos hrsv]
  · rwa [if_neg (not_not_intro hrsv), if_pos hop]
  · rwa [if_neg (not_not_intro hrsv), if_neg (not_not_intro hop), if_pos hdual]
  · rw [if_neg (not_not_intro hrsv), if_neg (not_not_intro hop), if_neg hdual]
    subst hi
    refine ⟨i, hd, ?_, ?_⟩
    · obtain ⟨r, hr, hsel, hrow⟩ := row_of_command i
      exact ⟨r, hr, pattern_op_of_selects hr hsel, hrow⟩
    · rintro dual rfl
      cases dual <;> rfl

/-- Settles O5: rows and commands select and encode the same bytes, and a byte has one command. -/
theorem decodeFollowsOpcodeMap : Obligations.DecodeFollowsOpcodeMap := by
  refine ⟨fun c r r' hr hr' h h' => ?_, fun c r hr h => ?_, fun c hnone i hd => ?_⟩
  · obtain ⟨i, hi, hm, -⟩ := command_of_row hr h
    obtain ⟨j, hj, hm', -⟩ := command_of_row hr' h'
    cases (decode_eq_ok_iff.mpr hi).symm.trans (decode_eq_ok_iff.mpr hj)
    exact opRows_mnemonic_injective r hr r' hr' (hm.symm.trans hm')
  · obtain ⟨i, hi, hrow⟩ := command_of_row hr h
    exact ⟨i, decode_eq_ok_iff.mpr hi, hrow⟩
  · obtain ⟨r, hr, hsel, -⟩ := row_of_command i
    rw [decode_eq_ok_iff.mp hd, hnone r hr] at hsel
    cases hsel

/-! ## Written forms (30_encoding.md R71, R72) -/

theorem Asm.toRequest_cmd (f : Asm) : f.toRequest.cmd = encode f.instr := by
  cases f <;> rfl

/-- Settles O7: a form's byte is the encoder's for its command, which decodes back. -/
theorem writtenFormsAndPseudoCommands : Obligations.WrittenFormsAndPseudoCommands :=
  ⟨fun _ _ _ => ⟨rfl, rfl, rfl, rfl⟩, fun _ _ _ => ⟨rfl, rfl, rfl, rfl⟩, fun _ _ _ => ⟨rfl, rfl, rfl, rfl⟩,
    fun _ _ _ => ⟨rfl, rfl, rfl, rfl⟩, fun _ _ => ⟨rfl, rfl, rfl⟩, fun _ _ _ => ⟨rfl, rfl, rfl, rfl⟩,
    fun _ _ _ => ⟨rfl, rfl, rfl, rfl⟩, fun _ => ⟨rfl, rfl⟩, fun _ _ => ⟨rfl, rfl, rfl⟩,
    fun _ _ _ => ⟨rfl, rfl, rfl, rfl⟩, fun _ => ⟨rfl, rfl⟩,
    fun f => f.toRequest_cmd ▸ decode_encode f.instr,
    fun _ _ => rfl, fun _ _ => rfl, fun _ _ => rfl, fun _ _ _ => rfl⟩

end Sys2Proof
end

section
/-! PROOFS. What a command takes of its request: nothing at all of a reserved one (30_encoding.md R66;
60_exceptions.md R162), and of a legal one the fields it reads, at their width (R63, R64); and the width of what it
answers (R69). -/

namespace Sys2Proof.Machine

/-! ## A reserved byte -/

/-- Settles O6: a byte that is not legal does not decode, and an idle hasher raises on it what it captured. -/
theorem reservedByteRaisesIllegalCommand : Obligations.ReservedByteRaisesIllegalCommand := by
  refine ⟨decodes_iff_legal, fun s q hr hq => ?_⟩
  obtain ⟨e, he⟩ := decode_error_of_not_legal hq
  exact ⟨(s.capture q).raiseIllegal q.cmd, by simp [step_of_ready hr, runCommand, he], rfl, rfl, rfl, rfl, rfl, rfl,
    hr.turns, rfl, fun _ => rfl⟩

/-! ## A command ends alike from states that differ in the captured request alone -/

/-- The state with another request captured. -/
def State.recapture (s : State) (q : Request) : State := { s with regs := { s.regs with captured := q } }

section
variable (s : State) (q q' : Request) (i : Instr)

theorem State.recapture_capture : (s.capture q).recapture q' = s.capture q' := rfl

theorem State.recapture_logReads (pairs : List (Word64 × Byte)) :
    (s.recapture q).logReads pairs = (s.logReads pairs).recapture q := rfl

theorem dropRegs_recapture (free r : Regs) : dropRegs i free { r with captured := q } = dropRegs i free r := by
  cases i <;> rfl

theorem State.recapture_respond (p : Response) : (s.recapture q).respond i p = s.respond i p := by
  simp only [State.respond, State.recapture, dropRegs_recapture]
  rfl

theorem State.recapture_raise (f : HwFault) (info : Word64) : (s.recapture q).raise i f info = s.raise i f info := by
  simp only [State.raise, State.recapture, dropRegs_recapture]
  rfl

end

section
variable {s : State} {q : Request} {i : Instr}

/-- Of the request a hash command's three ends look at the range alone. -/
theorem hashCommand_recapture (haddr : s.regs.captured.addr = q.addr) (hlen : s.regs.captured.len = q.len)
    (answer : List Byte → Response) : hashCommand i (s.recapture q) answer = hashCommand i s answer := by
  have hq : (s.recapture q).regs.captured = q := rfl
  have hmem : (s.recapture q).mem = s.mem := rfl
  have hwraps : addrWraps s.regs.captured = addrWraps q := by rw [addrWraps, addrWraps, haddr, hlen]
  simp only [hashCommand, hq, hmem, hwraps, haddr, hlen, State.recapture_logReads, State.recapture_respond,
    State.recapture_raise]

/-- The rotate amount modulo 32 is in the low half of its field. -/
theorem rotl32Value_congr {q q' : Request} (ha : low32 q.a = low32 q'.a) (hb : low32 q.b = low32 q'.b) :
    rotl32Value q = rotl32Value q' := by
  have hmod (r : Request) : r.b.toNat % 32 = (low32 r.b).toNat % 32 := by
    rw [low32, BitVec.toNat_setWidth]
    omega
  rw [rotl32Value, rotl32Value, hmod, hmod, ha, hb]

/-- A command does the same with any request that agrees with the captured one where it reads it. -/
theorem exec_recapture (h : sameOperands i s.regs.captured q) : exec i (s.recapture q) = exec i s := by
  have hq : (s.recapture q).regs.captured = q := rfl
  have primitive {p p' : Response} (hp : p = p') :
      (.next ((s.recapture q).respond i p) : Result) = .next (s.respond i p') := by
    rw [hp, State.recapture_respond]
  cases i with
  | shake32 =>
    obtain ⟨haddr, hlen, hseed⟩ := h
    rw [exec_shake32, exec_shake32, hashCommand_recapture haddr hlen, hq, seed32, seed32, hseed, hlen]
  | shake64 dual =>
    obtain ⟨haddr, hlen, hseed⟩ := h
    rw [exec_shake64, exec_shake64, hashCommand_recapture haddr hlen, hq, hseed, hlen]
  | stir =>
    obtain ⟨haddr, hlen, hseed⟩ := h
    rw [exec_stir, exec_stir, hashCommand_recapture haddr hlen, hq, seed32, seed32, hseed]
  | rotl32 =>
    obtain ⟨ha, hb⟩ := h
    exact primitive (by rw [hq, rotl32Value_congr ha hb])
  | combine32 =>
    obtain ⟨ha, hb, hg⟩ := h
    exact primitive (by rw [hq, ha, hb, hg])
  | mix32 =>
    obtain ⟨ha, hb, hg⟩ := h
    exact primitive (by rw [hq, ha, hb, hg])
  | scramble32 => exact primitive (by rw [hq, show low32 s.regs.captured.a = low32 q.a from h])
  | rotl64 =>
    obtain ⟨ha, hb⟩ := h
    exact primitive (by rw [hq, rotl64Value, rotl64Value, ha, hb])
  | mix64 =>
    obtain ⟨ha, hb, hg⟩ := h
    exact primitive (by rw [hq, ha, hb, hg])
  | scramble64 => exact primitive (by rw [hq, show s.regs.captured.a = q.a from h])

end

/-- Settles O21: the two requests are captured into states that differ in nothing the command reads. -/
theorem unreadFieldsAreIgnored : Obligations.UnreadFieldsAreIgnored := by
  intro s q q' i hr hd hcmd hsame
  have hr' : Ready { s with request := some q' } q' := ⟨hr.idle, hr.response, rfl, hr.turns⟩
  calc step { s with request := some q' }
    _ = exec i ((s.capture q).recapture q') := by
      rw [step_of_ready hr', runCommand_of_decode _ (hcmd ▸ hd)]; rfl
    _ = exec i (s.capture q) := exec_recapture hsame
    _ = step s := by rw [step_of_ready hr, runCommand_of_decode s hd]

/-! ## The width of a 32-bit command's digest (30_encoding.md R69) -/

/-- The digest, where there is one, is a 32-bit value zero-extended. -/
def Response.narrow (p : Response) : Prop := ∀ d, p.digest = some d → ∃ r, d = zext64 r

theorem Response.good_narrow (r : Word32) : (Response.good (zext64 r)).narrow := by
  rintro d ⟨⟩
  exact ⟨r, rfl⟩

theorem Response.fault_narrow (f : HwFault) (info : Word64) : (Response.fault f info).narrow := by
  rintro d ⟨⟩

theorem zext64_upper (r : Word32) : (zext64 r).extractLsb' 32 32 = 0#32 := by
  have hr : r.toNat < 2 ^ 32 := r.isLt
  refine BitVec.eq_of_toNat_eq ?_
  rw [BitVec.extractLsb'_toNat, zext64, BitVec.toNat_setWidth, Nat.shiftRight_eq_div_pow, BitVec.toNat_ofNat]
  omega

/-- A hash command whose good responses are narrow responds narrowly in each of its three ends. -/
theorem hashCommand_narrow (i : Instr) (s : State) {answer : List Byte → Response}
    (h : ∀ msg, (answer msg).narrow) : ∃ t p, hashCommand i s answer = .next t ∧ t.response = some p ∧ p.narrow := by
  rcases hashCommand_cases i s answer with ⟨-, e⟩ | ⟨-, x, -, e⟩ | ⟨-, -, e⟩
  · exact ⟨_, _, e, rfl, Response.fault_narrow _ _⟩
  · exact ⟨_, _, e, rfl, Response.fault_narrow _ _⟩
  · exact ⟨_, _, e, rfl, h _⟩

theorem exec_narrow {i : Instr} (hi : i ∈ [Instr.shake32, .stir, .rotl32, .combine32, .mix32, .scramble32])
    (s : State) : ∃ t p, exec i s = .next t ∧ t.response = some p ∧ p.narrow := by
  have primitive {p : Response} (h : p.narrow) :
      ∃ t p', (.next (s.respond i p) : Result) = .next t ∧ t.response = some p' ∧ p'.narrow :=
    ⟨_, p, rfl, rfl, h⟩
  cases i with
  | shake32 => exact exec_shake32 s ▸ hashCommand_narrow _ s fun _ => Response.good_narrow _
  | stir => exact exec_stir s ▸ hashCommand_narrow _ s fun _ => Response.good_narrow _
  | rotl32 => exact primitive (Response.good_narrow _)
  | combine32 => exact primitive (Response.good_narrow _)
  | mix32 => exact primitive (Response.good_narrow _)
  | scramble32 => exact primitive (Response.good_narrow _)
  | _ => simp at hi

/-- Settles O22: each 32-bit command's good response is narrow, and a fault has no digest. -/
theorem thirtyTwoBitDigestsAreZeroExtended : Obligations.ThirtyTwoBitDigestsAreZeroExtended := by
  intro i hi s
  obtain ⟨t, p, ht, hp, hnarrow⟩ := exec_narrow hi s
  refine ⟨t, p, ht, hp, fun d hd => ?_⟩
  obtain ⟨r, rfl⟩ := hnarrow d hd
  exact ⟨r, rfl, zext64_upper r⟩

end Sys2Proof.Machine
end

section
/-! PROOFS. The operators the mixing primitives are made of (00_scope.md R17), at every width: which bit a rotation
puts where, and which steps of a mixing function lose nothing. -/

namespace Sys2Proof.Machine

section
variable {w : Nat}

/-! ## Rotation -/

/-- The machine's rotation is the library's, for the amounts it is defined at. -/
theorem rotl_eq_rotateLeft (a : BitVec w) {r : Nat} (hr : r < w) : rotl a r = a.rotateLeft r := by
  rw [rotl, BitVec.rotateLeft_def, Nat.mod_eq_of_lt hr]
  split
  next h0 => simp [h0, BitVec.ushiftRight_eq_zero le_rfl]
  next => rfl

/-- Bit `k` of the rotated value is bit `k - r` modulo the width. -/
theorem getLsbD_rotl (a : BitVec w) {r k : Nat} (hr : r < w) (hk : k < w) :
    (rotl a r).getLsbD k = a.getLsbD ((k + w - r) % w) := by
  rw [rotl_eq_rotateLeft a hr, BitVec.getLsbD_rotateLeft, Nat.mod_eq_of_lt hr]
  by_cases hkr : k < r
  · have hidx : (k + w - r) % w = w - r + k := by rw [Nat.mod_eq_of_lt] <;> omega
    simp [hkr, hidx]
  · have hidx : (k + w - r) % w = k - r := by
      rw [show k + w - r = k - r + w by omega, Nat.add_mod_right, Nat.mod_eq_of_lt (by omega)]
    simp [hkr, hk, hidx]

theorem rotl_zero_left (r : Nat) : rotl (0 : BitVec w) r = 0 := by
  simp [rotl]

/-! ## Steps that are bijections -/

/-- Every bit of `a` is found in the rotated value, `r` places up modulo the width. -/
theorem rotl_bijective {r : Nat} (hr : r < w) : Function.Bijective fun a : BitVec w => rotl a r := by
  refine Finite.injective_iff_bijective.mp fun a b (hab : rotl a r = rotl b r) => ?_
  refine BitVec.eq_of_getLsbD_eq fun i hi => ?_
  have hlt : (i + r) % w < w := Nat.mod_lt _ (by omega)
  have hidx : ((i + r) % w + w - r) % w = i := by
    by_cases h : i + r < w
    · rw [Nat.mod_eq_of_lt h, show i + r + w - r = i + w by omega, Nat.add_mod_right, Nat.mod_eq_of_lt hi]
    · have hmod : (i + r) % w = i + r - w := by rw [Nat.mod_eq_sub_mod (by omega), Nat.mod_eq_of_lt (by omega)]
      rw [hmod, show i + r - w + w - r = i by omega, Nat.mod_eq_of_lt hi]
  have hbit := congrArg (·.getLsbD ((i + r) % w)) hab
  simpa only [getLsbD_rotl _ hr hlt, hidx] using hbit

theorem xorShift_xor (a b : BitVec w) (k : Nat) : xorShift (a ^^^ b) k = xorShift a k ^^^ xorShift b k := by
  simp only [xorShift, BitVec.ushiftRight_xor_distrib]
  ac_rfl

/-- A value that a shift by at least one place leaves as it is, is 0. -/
theorem eq_zero_of_ushiftRight_eq_self {a : BitVec w} {k : Nat} (hk : k ≠ 0) (h : a >>> k = a) : a = 0#w := by
  have hdiv : a.toNat / 2 ^ k = a.toNat := by
    rw [← Nat.shiftRight_eq_div_pow, ← BitVec.toNat_ushiftRight, h]
  refine BitVec.eq_of_toNat_eq (Nat.eq_zero_of_not_pos fun hpos => ?_)
  exact absurd hdiv (Nat.div_lt_self hpos (Nat.one_lt_two_pow hk)).ne

/-- The xor-shift is linear over xor, and of 0 alone it is 0. -/
theorem xorShift_bijective {k : Nat} (hk : k ≠ 0) : Function.Bijective fun a : BitVec w => xorShift a k := by
  refine Finite.injective_iff_bijective.mp fun a b (hab : xorShift a k = xorShift b k) => ?_
  have hzero : xorShift (a ^^^ b) k = 0#w := by rw [xorShift_xor, hab, BitVec.xor_self]
  have hshift : (a ^^^ b) >>> k = a ^^^ b := (BitVec.xor_eq_zero_iff.mp hzero).symm
  exact BitVec.xor_eq_zero_iff.mp (eq_zero_of_ushiftRight_eq_self hk hshift)

/-- An odd multiplier has no factor in common with the modulus. -/
theorem mul_odd_bijective {m : BitVec w} (hm : m.getLsbD 0 = true) : Function.Bijective fun a : BitVec w => a * m := by
  refine Finite.injective_iff_bijective.mp fun a b (hab : a * m = b * m) => ?_
  have hodd : Odd m.toNat := by
    rw [← BitVec.testBit_toNat, Nat.testBit_zero, decide_eq_true_eq] at hm
    exact Nat.odd_iff.mpr hm
  have hcoprime : Nat.gcd (2 ^ w) m.toNat = 1 := Nat.Coprime.pow_left w (Nat.coprime_two_left.mpr hodd)
  have hmod : a.toNat * m.toNat ≡ b.toNat * m.toNat [MOD 2 ^ w] := by
    simpa only [BitVec.toNat_mul, Nat.ModEq] using congrArg BitVec.toNat hab
  exact BitVec.eq_of_toNat_eq
    ((Nat.ModEq.cancel_right_of_coprime hcoprime hmod).eq_of_lt_of_lt a.isLt b.isLt)

end

end Sys2Proof.Machine
end

section
/-! PROOFS. The 32-bit mixing primitives (40_primitives32.md): the response and frame of each command, and which of
the functions lose nothing. -/

namespace Sys2Proof.Machine

/-! ## The primitive commands -/

/-- A command of another format than H that responds well does nothing else (10_state.md R23; 40_primitives32.md R80;
42_primitives64.md R110). -/
theorem respond_good_primitiveFrame {i : Instr} (hf : i.format ≠ .h) (s : State) (d : Word64) :
    PrimitiveFrame s (s.respond i (.good d)) where
  idle := rfl
  request := rfl
  memory _ := rfl
  turns := rfl
  received := rfl
  reads := rfl
  faulted := by simp [Response.good]
  s32 := by simp [dropRegs_primitive _ _ i hf]
  s64 := by simp [dropRegs_primitive _ _ i hf]

theorem exec_rotl32 (s : State) :
    exec .rotl32 s = .next (s.respond .rotl32 (.good (zext64 (rotl32Value s.regs.captured)))) := rfl

theorem exec_combine32 (s : State) : exec .combine32 s = .next (s.respond .combine32 (.good (zext64
    (combine32 Config.build (low32 s.regs.captured.a) (low32 s.regs.captured.b) (low32 s.regs.captured.g))))) := rfl

theorem exec_mix32 (s : State) : exec .mix32 s = .next (s.respond .mix32 (.good (zext64
    (Config.build.mix32 (low32 s.regs.captured.a + low32 s.regs.captured.g) (low32 s.regs.captured.b))))) := rfl

theorem exec_scramble32 (s : State) : exec .scramble32 s =
    .next (s.respond .scramble32 (.good (zext64 (scramble32 Config.build (low32 s.regs.captured.a))))) := rfl

/-- A primitive that responds with a zero-extended value ends with that response and its frame. -/
theorem ends_of_respond_zext64 {i : Instr} {s : State} {r : Word32} (hf : i.format ≠ .h)
    (h : exec i s = .next (s.respond i (.good (zext64 r)))) :
    ∃ t, exec i s = .next t ∧ t.response = some (good32 r) ∧ PrimitiveFrame s t :=
  ⟨_, h, rfl, respond_good_primitiveFrame hf s _⟩

/-! ## ROTL32 -/

theorem getLsbD_rotl32Value (q : Request) {k : Nat} (hk : k < 32) :
    (rotl32Value q).getLsbD k = q.a.getLsbD ((k + 32 - q.b.toNat % 32) % 32) := by
  have hidx : (k + 32 - q.b.toNat % 32) % 32 < 32 := Nat.mod_lt _ (by decide)
  rw [rotl32Value, getLsbD_rotl _ (Nat.mod_lt _ (by decide)) hk, low32, BitVec.getLsbD_setWidth]
  simp [hidx]

/-- Settles O24: the response is the rotation of the low half, bit by bit. -/
theorem rotl32Result : Obligations.Rotl32Result := by
  intro s
  obtain ⟨t, ht, hp, hframe⟩ := ends_of_respond_zext64 (by decide) (exec_rotl32 s)
  exact ⟨t, _, ht, hp, fun k hk => getLsbD_rotl32Value s.regs.captured hk, hframe⟩

/-! ## COMBINE32 -/

theorem combine32_eq (c : Config) (h w g : Word32) :
    combine32 c h w g = (h + g + w * c.m1).rotateLeft 14 * c.m2 := by
  rw [combine32, rotl_eq_rotateLeft _ (by decide)]

/-- COMBINE32 in the lane, as its steps in order. -/
theorem combine32_eq_comp (c : Config) (w g : Word32) : (fun h => combine32 c h w g) =
    (fun x : Word32 => x * c.m2) ∘ (fun x : Word32 => rotl x 14) ∘ (fun x : Word32 => x + w * c.m1) ∘
      fun x : Word32 => x + g := rfl

/-- Settles O26: the command's response is the function of its low halves, rewritten by the library's rotation. -/
theorem combine32Result : Obligations.Combine32Result := by
  intro s
  have hends := ends_of_respond_zext64 (by decide) (exec_combine32 s)
  rwa [combine32_eq] at hends

/-- Settles O33: each step on the lane is a bijection, the multiplication because `M2` is odd; `M1` multiplies the word
alone. -/
theorem combine32Bijective : Obligations.Combine32Bijective := by
  intro c w g _ hm2
  rw [combine32_eq_comp]
  exact (mul_odd_bijective hm2).comp ((rotl_bijective (by decide)).comp
    ((AddGroup.addRight_bijective (w * c.m1)).comp (AddGroup.addRight_bijective g)))

/-- Settles O32: in both functions the increment meets the lane first. -/
theorem guardIncrementJoinsLane : Obligations.GuardIncrementJoinsLane := by
  refine ⟨fun c h w g => ?_, fun c h w g => ?_⟩
  · rw [combine32_eq, combine32_eq, add_zero]
  · simp only [mix64, add_zero]

/-! ## MIX32 -/

/-- Settles O27: the command's response is the build's open function of the low halves. -/
theorem mix32Result : Obligations.Mix32Result := fun s => ends_of_respond_zext64 (by decide) (exec_mix32 s)

/-- With word 0 nothing is xored into the lane. -/
theorem mix32Default_zero_word (x1 : Word32) (xr1 : BitVec 5) (x2 : Word32) (xr2 : BitVec 5) (x3 h : Word32) :
    mix32Default x1 xr1 x2 xr2 x3 h 0 = rotl h xr2.toNat * x3 := by
  have hword : rotl ((0 : Word32) * x1) xr1.toNat * x2 = 0 := by
    rw [zero_mul, rotl_zero_left, zero_mul]
  rw [mix32Default, hword]
  simp

/-- Settles O40: both corners have word 0, and a rotation of 0 is 0. -/
theorem defaultMixCorners : Obligations.DefaultMixCorners := by
  refine ⟨fun x1 xr1 x2 xr2 x3 => ?_, fun x1 xr1 x2 xr2 x3 h => ?_⟩
  · rw [mix32Default_zero_word, rotl_zero_left, zero_mul]
  · rw [mix32Default_zero_word, rotl_eq_rotateLeft h xr2.isLt]

/-! ## SCRAMBLE32 -/

/-- Settles O28: the command's response is the five steps on the low half. -/
theorem scramble32Result : Obligations.Scramble32Result := by
  intro s
  obtain ⟨t, ht, hp, hframe⟩ := ends_of_respond_zext64 (by decide) (exec_scramble32 s)
  exact ⟨t, _, _, ht, rfl, rfl, hp, hframe⟩

/-- SCRAMBLE32 as its five steps in order. -/
theorem scramble32_eq_comp (c : Config) : scramble32 c =
    (fun x : Word32 => xorShift x c.sr3.toNat) ∘ (fun x : Word32 => x * c.sm2) ∘
      (fun x : Word32 => xorShift x c.sr2.toNat) ∘ (fun x : Word32 => x * c.sm1) ∘
      fun x : Word32 => xorShift x c.sr1.toNat := rfl

theorem shiftsInRange_iff (c : Config) :
    c.shiftsInRange = true ↔ c.sr1.toNat ≠ 0 ∧ c.sr2.toNat ≠ 0 ∧ c.sr3.toNat ≠ 0 := by
  simp [Config.shiftsInRange, ← BitVec.toNat_inj, and_assoc]

/-- Settles O34: xor-shifts by at least one place and odd multiplications are bijections. -/
theorem scramble32Bijective : Obligations.Scramble32Bijective := by
  intro c hshifts hm1 hm2
  obtain ⟨h1, h2, h3⟩ := (shiftsInRange_iff c).mp hshifts
  rw [scramble32_eq_comp]
  exact (xorShift_bijective h3).comp ((mul_odd_bijective hm2).comp ((xorShift_bijective h2).comp
    ((mul_odd_bijective hm1).comp (xorShift_bijective h1))))

end Sys2Proof.Machine
end

section
/-! PROOFS. The three ends of a hash command (60_exceptions.md R160, R163, R165), once for STIR, SHAKE32 and SHAKE64:
what is special to one of them is its good response and the lanes it leaves alone. -/

namespace Sys2Proof.Machine

/-- Every command, in each of its ends, leaves as they were what `CommandFrame` lists. -/
theorem exec_frame {i : Instr} {s t : State} (h : exec i s = .next t) : CommandFrame s t := by
  obtain ⟨pairs, p, r, rfl⟩ := exec_emits h
  exact ⟨rfl, rfl, fun _ => rfl, rfl, rfl⟩

section
variable {i : Instr} {s : State} {answer : List Byte → Response} {msg : List Byte}

theorem hashCommand_wraps (h : ¬ rangeFits s.regs.captured) :
    hashCommand i s answer = .next (s.raise i .addrWrap s.regs.captured.addr) := by
  have hw : addrWraps s.regs.captured = true := by simpa using mt addrWraps_eq_false_iff.1 h
  simp [hashCommand, hw]

theorem hashCommand_refused (hfits : rangeFits s.regs.captured) (hlt : msg.length < s.regs.captured.len.toNat)
    (hm : HoldsMessage s.mem.read s.regs.captured.addr msg)
    (hnone : s.mem.read (s.regs.captured.addr + BitVec.ofNat 64 msg.length) = none) :
    hashCommand i s answer = .next ((s.logReads (messageReads s.regs.captured.addr msg)).raise i .msgAccessFault
      (s.regs.captured.addr + BitVec.ofNat 64 msg.length)) := by
  simp [hashCommand, addrWraps_eq_false_iff.2 hfits, readBytes_of_hole hm hlt hnone]

theorem hashCommand_good (hfits : rangeFits s.regs.captured) (hl : msg.length = s.regs.captured.len.toNat)
    (hm : HoldsMessage s.mem.read s.regs.captured.addr msg) :
    hashCommand i s answer =
      .next ((s.logReads (messageReads s.regs.captured.addr msg)).respond i (answer msg)) := by
  simp [hashCommand, addrWraps_eq_false_iff.2 hfits, ← hl, readBytes_of_holds msg hm, ReadResult.bytes]

/-- A command that is a hash command, and whose response is a rule's good one on every whole message, has the three
ends, if dropping its registers keeps the lanes in question. -/
theorem hashEnds_of_hashCommand {rule : List Byte → Response} {keeps : Regs → Regs → Prop}
    (he : exec i s = hashCommand i s answer)
    (hrule : ∀ msg, msg.length = s.regs.captured.len.toNat → answer msg = rule msg)
    (hgood : ∀ msg, (rule msg).err = 0)
    (hkeeps : keeps s.regs (dropRegs i (Config.unspecified s.freeCount) s.regs)) : HashEnds i s rule keeps where
  wraps hwraps := by
    have ht := he.trans (hashCommand_wraps hwraps)
    exact ⟨_, ht, rfl, rfl, State.raise_faulted .., exec_frame ht, hkeeps⟩
  refused msg hfits hlt hm hnone := by
    have ht := he.trans (hashCommand_refused hfits hlt hm hnone)
    exact ⟨_, ht, rfl, rfl, State.raise_faulted .., exec_frame ht, hkeeps⟩
  good msg hfits hl hm := by
    have ht := he.trans (hashCommand_good hfits hl hm)
    rw [hrule msg hl] at ht
    exact ⟨_, ht, rfl, rfl, by simp [hgood], exec_frame ht, hkeeps⟩

end

end Sys2Proof.Machine
end

section
/-! PROOFS. SHAKE32 (41_shake32.md) and what it shares with SHAKE64: the phase counts, the digest of the rule, of the
empty message and of a message below one block, and the two builds under seed 0. -/

namespace Sys2Proof.Machine

/-! ## The phase counts (41_shake32.md R100; 43_shake64.md R141) -/

section
variable {block word : Nat}

/-- Whole blocks, then whole words of what is left, then the bytes past them: a byte tail of the last block is one of
the whole length, because a block is whole words. -/
theorem phaseCounts_add (hd : word ∣ block) (len : Nat) :
    block * nblk block len + word * nw block word len + nb word len = len := by
  calc block * nblk block len + word * nw block word len + nb word len
    _ = block * (len / block) + (word * (len % block / word) + len % block % word) := by
      rw [nblk, nw, nb, Nat.mod_mod_of_dvd _ hd, Nat.add_assoc]
    _ = len := by rw [Nat.div_add_mod, Nat.div_add_mod]

theorem nw_lt (hd : word ∣ block) (hb : 0 < block) (len : Nat) : nw block word len < block / word :=
  Nat.div_lt_div_of_lt_of_dvd hd (Nat.mod_lt len hb)

theorem nb_lt (hw : 0 < word) (len : Nat) : nb word len < word := Nat.mod_lt len hw

end

/-- Settles O43: both algorithms' blocks are whole words, four and twelve. -/
theorem phaseCountsPartitionLength : Obligations.PhaseCountsPartitionLength := fun len =>
  ⟨⟨phaseCounts_add (by decide) len, Nat.le_of_lt_succ (nw_lt (by decide) (by decide) len),
      Nat.le_of_lt_succ (nb_lt (by decide) len)⟩,
    ⟨phaseCounts_add (by decide) len, Nat.le_of_lt_succ (nw_lt (by decide) (by decide) len),
      Nat.le_of_lt_succ (nb_lt (by decide) len)⟩⟩

/-! ## The command -/

/-- Settles O45: SHAKE32 is a hash command, and its digest of a whole message is the rule's. -/
theorem shake32Result : Obligations.Shake32Result := fun s =>
  hashEnds_of_hashCommand (exec_shake32 s)
    (fun msg hl => by rw [shake32Digest_eq_reference _ _ _ hl]; rfl) (fun _ => rfl) rfl

/-! ## The empty message (41_shake32.md R101) -/

/-- The guard term INIT takes off the seed is what LENFOLD's combination adds again, so no build is visible. -/
theorem shake32Reference_empty (c : Config) (sd : Word32) :
    shake32Reference c sd 0 [] = scramble32 c ((c.c32[0] + sd).rotateLeft 14 * c.m2) := by
  have hlane : c.c32[0] + (sd - guardTerm c sd) + guardTerm c sd + low32 0 * c.m1 = c.c32[0] + sd := by
    rw [show low32 0 = 0 from rfl, zero_mul, add_zero, add_assoc, sub_add_cancel]
  calc shake32Reference c sd 0 []
    _ = scramble32 c (combine32 c (c.c32[0] + (sd - guardTerm c sd)) (low32 0) (guardTerm c sd)) := rfl
    _ = scramble32 c ((c.c32[0] + sd).rotateLeft 14 * c.m2) := by rw [combine32_eq, hlane]

/-- Settles O49: the good end on the message of no byte. -/
theorem shake32OfEmptyMessage : Obligations.Shake32OfEmptyMessage := by
  intro s hl
  obtain ⟨t, ht, hp, hreads, -⟩ := (shake32Result s).good [] (.inl hl) (by simp [hl]) (fun k b hk => by simp at hk)
  rw [hl, shake32Reference_empty] at hp
  exact ⟨t, ht, by simpa [messageReads] using hreads, hp⟩

/-! ## Seed 0 (41_shake32.md R102; 43_shake64.md R144) -/

theorem guardTerm_zero (c : Config) (w : Nat) : guardTerm c (0 : BitVec w) = 0 := ite_self 0

/-- `GUARD_EN` enters SHAKE32 through the guard term alone. -/
theorem shake32Digest_seed_zero (c : Config) (guard : Bool) (len : Word64) (msg : List Byte) :
    shake32Digest { c with guardEn := guard } 0 len msg = final32 c
      ((shake32Ops c 0 len).lanesFrom len.toNat 0 (bulkOrLater 16 len.toNat 0) (init32 c 0 0) msg) := by
  rw [shake32Digest_eq_lanesFrom, guardTerm_zero]
  rfl

/-- `GUARD_EN` enters the lanes of SHAKE64 through the guard term alone. -/
theorem shake64Lanes_seed_zero (c : Config) (guard : Bool) (len : Word64) (msg : List Byte) :
    shake64Lanes { c with guardEn := guard } 0 len msg =
      (shake64Ops c 0 len).lanesFrom len.toNat 0 (bulkOrLater 96 len.toNat 0) (init64 c 0 0) msg := by
  rw [shake64Lanes_eq_lanesFrom, guardTerm_zero]
  rfl

/-- Settles O52: under either build each hash is the one written without the guard. -/
theorem seedZeroBuildsAgree : Obligations.SeedZeroBuildsAgree := by
  refine ⟨fun c len msg => ?_, fun c dual len msg => ?_⟩
  · rw [shake32Digest_seed_zero, shake32Digest_seed_zero]
  · rw [shake64Lanes_seed_zero, shake64Lanes_seed_zero]
    rfl

/-! ## Below one block (41_shake32.md R95, R103) -/

/-- The tail of a message below one block, on lane 0: its words, then its bytes. -/
def shortTail32 (c : Config) (gd : Word32) (n : Nat) (msg : List Byte) (x : Word32) : Word32 :=
  let y := (List.range (nw 16 4 n)).foldl (fun x j => c.mix32 (x + gd) (word32 ((msg.drop (4 * j)).take 4))) x
  if nb 4 n ≠ 0 then combine32 c y (word32 (msg.drop (4 * nw 16 4 n))) gd else y

/-- With no block there is no BULK and no CONDENSE, so lane 0 meets no other lane. -/
theorem shake32Digest_of_short (c : Config) (sd : Word32) {len : Word64} (msg : List Byte) (h : len.toNat < 16) :
    shake32Digest c sd len msg = scramble32 c (shortTail32 c (guardTerm c sd) len.toNat msg
      (combine32 c (c.c32[0] + (sd - guardTerm c sd)) (low32 len) (guardTerm c sd))) := by
  have hblk : nblk 16 len.toNat = 0 := Nat.div_eq_of_lt h
  have hlane : (lenfold32 c (guardTerm c sd) (init32 c sd (guardTerm c sd)) len)[0] =
      combine32 c (c.c32[0] + (sd - guardTerm c sd)) (low32 len) (guardTerm c sd) := by
    simp [lenfold32, init32]
  simp only [shake32Digest, final32, hblk, blocks32, if_neg (Nat.not_le_of_lt h), Nat.mul_zero, List.drop_zero,
    apply_ite (fun s : Lanes32 => s[0]), lane0_byteTail32, wordTails32_foldl, wordTails32_lane0, hlane]
  rfl

/-- Settles O53: the short digest names lane 0's constant and no other. -/
theorem shortMessagesUseLaneZeroOnly : Obligations.ShortMessagesUseLaneZeroOnly := by
  intro c lanes sd len msg hshort hlane
  rw [shake32Digest_of_short _ _ _ hshort, shake32Digest_of_short _ _ _ hshort, hlane]
  rfl

end Sys2Proof.Machine
end

section
/-! PROOFS. The parity step of SCRAMBLE64 (42_primitives64.md R116, R117): its form in 64-bit operations is the
triangular number, and triangular numbers below a power of two differ modulo that power. -/

namespace Sys2Proof.Machine

/-! ## Triangular numbers modulo a power of two -/

theorem two_mul_triangle (n : Nat) : 2 * (n * (n + 1) / 2) = n * (n + 1) :=
  Nat.two_mul_div_two_of_even n.even_mul_succ_self

/-- A power of two that divides a product of two integers of odd sum divides one of them. -/
theorem two_pow_dvd_of_dvd_mul {k : Nat} {x y : Int} (hodd : Odd (x + y)) (h : 2 ^ k ∣ x * y) :
    2 ^ k ∣ x ∨ 2 ^ k ∣ y := by
  rcases Int.even_or_odd x with hx | hx
  · have hy : Odd y := by simpa using hodd.sub_even hx
    exact .inl (((Int.isCoprime_two_left.mpr hy).pow_left).dvd_of_dvd_mul_right h)
  · exact .inr (((Int.isCoprime_two_left.mpr hx).pow_left).dvd_of_dvd_mul_left h)

/-- Twice the difference of two triangular numbers is `(b - a) * (a + b + 1)`, whose factors are of different parity
and too small for `2 ^ (w + 1)`, unless the first is 0. -/
theorem eq_of_triangle_modEq {w a b : Nat} (ha : a < 2 ^ w) (hb : b < 2 ^ w)
    (h : a * (a + 1) / 2 ≡ b * (b + 1) / 2 [MOD 2 ^ w]) : a = b := by
  have hdouble : a * (a + 1) ≡ b * (b + 1) [MOD 2 ^ (w + 1)] := by
    simpa only [two_mul_triangle, ← pow_succ'] using h.mul_left' 2
  have hfactors : (2 : Int) ^ (w + 1) ∣ (b - a) * (a + b + 1) := by
    have hdvd := Nat.modEq_iff_dvd.mp hdouble
    push_cast at hdvd
    rwa [show ((b : Int) - a) * (a + b + 1) = b * (b + 1) - a * (a + 1) by ring]
  have hpow : (2 : Int) ^ (w + 1) = 2 * (2 ^ w : Nat) := by push_cast; ring
  have hparity : Odd ((b : Int) - a + (a + b + 1)) := ⟨b, by ring⟩
  rcases two_pow_dvd_of_dvd_mul hparity hfactors with hdiff | hsum
  · have hzero := Int.eq_zero_of_abs_lt_dvd hdiff (abs_lt.mpr (by omega))
    omega
  · have hle := Int.le_of_dvd (by omega) hsum
    omega

/-! ## The two forms (42_primitives64.md R116) -/

theorem getLsbD_zero_iff_odd {w : Nat} (n : BitVec w) : n.getLsbD 0 = true ↔ Odd n.toNat := by
  rw [← BitVec.testBit_toNat, Nat.testBit_zero, decide_eq_true_eq, Nat.odd_iff]

/-- The increment overflows at the all-ones value only, which is why the document's form sets that one apart. -/
theorem toNat_add_one_of_ne {n : Word64} (h : n ≠ 0xFFFFFFFFFFFFFFFF) : (n + 1#64).toNat = n.toNat + 1 := by
  bv_omega

/-- Settles O36: the form halves whichever of `n` and `n + 1` is even, before it multiplies. -/
theorem tri64FormsAgree : Obligations.Tri64FormsAgree := by
  intro n
  unfold tri64
  split
  case isTrue hones => rw [hones]; rfl
  case isFalse hones =>
    have hsucc := toNat_add_one_of_ne hones
    refine BitVec.eq_of_toNat_eq ?_
    rw [tri64Exact, BitVec.toNat_ofNat]
    split
    case isTrue hbit =>
      have heven : 2 ∣ n.toNat + 1 := ((getLsbD_zero_iff_odd n).mp hbit).add_one.two_dvd
      rw [BitVec.toNat_mul, BitVec.toNat_ushiftRight, hsucc, Nat.shiftRight_one, Nat.mul_div_assoc _ heven]
    case isFalse hbit =>
      have heven : 2 ∣ n.toNat := (Nat.not_odd_iff_even.mp (mt (getLsbD_zero_iff_odd n).mpr hbit)).two_dvd
      rw [BitVec.toNat_mul, BitVec.toNat_ushiftRight, hsucc, Nat.shiftRight_one, Nat.mul_comm (n.toNat + 1),
        Nat.div_mul_right_comm heven]

/-! ## Nothing is lost (42_primitives64.md R117) -/

theorem tri64_bijective : Function.Bijective tri64 := by
  refine Finite.injective_iff_bijective.mp fun a b hab => ?_
  rw [tri64FormsAgree a, tri64FormsAgree b] at hab
  have hmod : a.toNat * (a.toNat + 1) / 2 ≡ b.toNat * (b.toNat + 1) / 2 [MOD 2 ^ 64] := by
    simpa only [tri64Exact, BitVec.toNat_ofNat, Nat.ModEq] using congrArg BitVec.toNat hab
  exact BitVec.eq_of_toNat_eq (eq_of_triangle_modEq a.isLt b.isLt hmod)

/-- Settles O37: 2 goes to 3, and 3 to 6. -/
theorem tri64Bijective : Obligations.Tri64Bijective := ⟨tri64_bijective, by decide⟩

end Sys2Proof.Machine
end

section
/-! PROOFS. The 64-bit mixing primitives (42_primitives64.md): the response and frame of each command, which of the
functions lose nothing, and the lanes the condensation leaves alone. -/

namespace Sys2Proof.Machine

/-! ## The primitive commands -/

theorem exec_rotl64 (s : State) :
    exec .rotl64 s = .next (s.respond .rotl64 (.good (rotl64Value s.regs.captured))) := rfl

theorem exec_mix64 (s : State) : exec .mix64 s = .next (s.respond .mix64
    (.good (mix64 Config.build s.regs.captured.a s.regs.captured.b s.regs.captured.g))) := rfl

theorem exec_scramble64 (s : State) : exec .scramble64 s =
    .next (s.respond .scramble64 (.good (scramble64 Config.build s.regs.captured.a))) := rfl

/-- A primitive that responds with a 64-bit value ends with that response and its frame. -/
theorem ends_of_respond_good {i : Instr} {s : State} {d : Word64} (hf : i.format ≠ .h)
    (h : exec i s = .next (s.respond i (.good d))) :
    ∃ t, exec i s = .next t ∧ t.response = some (good64 d) ∧ PrimitiveFrame s t :=
  ⟨_, h, rfl, respond_good_primitiveFrame hf s d⟩

/-! ## ROTL64 -/

theorem getLsbD_rotl64Value (q : Request) {k : Nat} (hk : k < 64) :
    (rotl64Value q).getLsbD k = q.a.getLsbD ((k + 64 - q.b.toNat % 64) % 64) :=
  getLsbD_rotl q.a (Nat.mod_lt _ (by decide)) hk

/-- Settles O25: the response is the rotation of `a`, bit by bit. -/
theorem rotl64Result : Obligations.Rotl64Result := by
  intro s
  obtain ⟨t, ht, hp, hframe⟩ := ends_of_respond_good (by decide) (exec_rotl64 s)
  exact ⟨t, _, ht, hp, fun k hk => getLsbD_rotl64Value s.regs.captured hk, hframe⟩

/-! ## MIX64 -/

theorem mix64_eq (c : Config) (h w g : Word64) :
    mix64 c h w g = ((h + g) ^^^ ((w * c.p1).rotateLeft 14 * c.p2)).rotateLeft 5 * 9 := by
  rw [mix64, rotl_eq_rotateLeft _ (by decide), rotl_eq_rotateLeft _ (by decide)]

/-- Settles O29: the command's response is the function of its operands, rewritten by the library's rotation. -/
theorem mix64Result : Obligations.Mix64Result := by
  intro s
  have hends := ends_of_respond_good (by decide) (exec_mix64 s)
  rwa [mix64_eq] at hends

/-- MIX64 in the lane, as its steps in order. -/
theorem mix64_eq_comp (c : Config) (w g : Word64) : (fun h => mix64 c h w g) =
    (fun x : Word64 => x * 9) ∘ (fun x : Word64 => rotl x 5) ∘
      (fun x : Word64 => x ^^^ rotl (w * c.p1) 14 * c.p2) ∘ fun x : Word64 => x + g := rfl

theorem xor_right_bijective {w : Nat} (t : BitVec w) : Function.Bijective fun x : BitVec w => x ^^^ t :=
  Function.Involutive.bijective fun x => by rw [BitVec.xor_assoc, BitVec.xor_self, BitVec.xor_zero]

/-- Settles O35: each step on the lane is a bijection; the one multiplier of the lane is 9, and the configured ones
multiply the word alone. -/
theorem mix64Bijective : Obligations.Mix64Bijective := by
  intro c w g
  rw [mix64_eq_comp]
  exact (mul_odd_bijective (by decide)).comp ((rotl_bijective (by decide)).comp
    ((xor_right_bijective _).comp (AddGroup.addRight_bijective g)))

/-! ## SCRAMBLE64 -/

/-- Settles O30: the command's response is the four steps on `a`, with the parity step as the triangular number. -/
theorem scramble64Result : Obligations.Scramble64Result := by
  intro s
  obtain ⟨t, ht, hp, hframe⟩ := ends_of_respond_good (by decide) (exec_scramble64 s)
  rw [scramble64, tri64FormsAgree] at hp
  exact ⟨t, _, ht, rfl, hp, hframe⟩

/-- SCRAMBLE64 as its four steps in order. -/
theorem scramble64_eq_comp (c : Config) : scramble64 c =
    (fun x : Word64 => xorShift x 32) ∘ tri64 ∘ (fun x : Word64 => x * c.q1) ∘
      fun x : Word64 => xorShift x 32 := rfl

/-- Settles O38: the xor-shifts, the odd multiplication and the parity step are bijections. -/
theorem scramble64Bijective : Obligations.Scramble64Bijective := by
  intro c hq1
  rw [scramble64_eq_comp]
  exact (xorShift_bijective (by decide)).comp (tri64_bijective.comp
    ((mul_odd_bijective hq1).comp (xorShift_bijective (by decide))))

/-! ## The condensation (42_primitives64.md R121) -/

/-- Settles O39: the chain over the source lanes, started from `s`, leaves every other lane as `s` has it. -/
theorem condenseWritesLaneZeroOnly : Obligations.CondenseWritesLaneZeroOnly := fun c s g j hj =>
  (condense64_foldl_lanes c g s c.cond64Src s fun _ _ => rfl).2 j hj

end Sys2Proof.Machine
end

section
/-! PROOFS. SHAKE64 (43_shake64.md): its three ends without and with the second digest, the digest of the empty message,
and the fields of its response that DUAL leaves as they are. -/

namespace Sys2Proof.Machine

/-! ## The primary fields of the response (43_shake64.md R143) -/

section
variable (c : Config) (dual : Bool) (s : Lanes64)

@[simp] theorem answer64_digest : (answer64 c dual s).digest = some (final64 c s) := by
  cases dual <;> rfl

@[simp] theorem answer64_err : (answer64 c dual s).err = 0 := by
  cases dual <;> rfl

@[simp] theorem answer64_info : (answer64 c dual s).info = none := by
  cases dual <;> rfl

end

/-! ## The command -/

/-- SHAKE64 with either DUAL has the three ends of a hash command, for any rule that writes out the good response. -/
theorem shake64_hashEnds (dual : Bool) {s : State} {rule : List Byte → Response}
    (hrule : ∀ msg, hashAnswer (.shake64 dual) s.regs.captured msg = some (rule msg)) :
    HashEnds (.shake64 dual) s rule fun r r' => r'.s32 = r.s32 :=
  hashEnds_of_hashCommand (exec_shake64 dual s)
    (fun msg hl => Option.some.inj ((hashAnswer_shake64 dual s.regs.captured hl).symm.trans (hrule msg)))
    (fun msg => hashAnswer_err (hrule msg)) (dropRegs_shake64_s32 ..)

/-- Settles O46: each half's rule is the good response for its DUAL. -/
theorem shake64Result : Obligations.Shake64Result :=
  ⟨fun _ => shake64_hashEnds false fun _ => rfl, fun _ => shake64_hashEnds true fun _ => rfl⟩

/-! ## The empty message (43_shake64.md R142) -/

/-- A zero word xors nothing into the lane. -/
theorem mix64_zero_word (c : Config) (h g : Word64) : mix64 c h 0 g = (h + g).rotateLeft 5 * 9 := by
  have hword : ((0 : Word64) * c.p1).rotateLeft 14 * c.p2 = 0 := by
    rw [zero_mul, ← rotl_eq_rotateLeft _ (by decide), rotl_zero_left, zero_mul]
  rw [mix64_eq, hword]
  simp

/-- The guard term INIT xors into the seed is what LENFOLD's mix adds, so with the guard on the seed cancels out of the
xor and is added. -/
theorem init64_lane0_add_guardTerm (c : Config) (sd : Word64) :
    (c.k64[0] ^^^ sd ^^^ guardTerm c sd) + guardTerm c sd =
      if c.guardEn then c.k64[0] + sd else c.k64[0] ^^^ sd := by
  unfold guardTerm
  split
  case isTrue => rw [BitVec.xor_assoc, BitVec.xor_self, BitVec.xor_zero]
  case isFalse => simp

/-- With no byte only INIT and LENFOLD write the lane. -/
theorem lane64Reference_empty (c : Config) (sd : Word64) : lane64Reference c sd 0 [] =
    (if c.guardEn then c.k64[0] + sd else c.k64[0] ^^^ sd).rotateLeft 5 * 9 := by
  have hlane : (bulk64Reference c sd 0 [])[0] = c.k64[0] ^^^ sd ^^^ guardTerm c sd :=
    Vector.getElem_set_self (by decide)
  calc lane64Reference c sd 0 []
    _ = mix64 c (bulk64Reference c sd 0 [])[0] 0 (guardTerm c sd) := rfl
    _ = _ := by rw [hlane, mix64_zero_word, init64_lane0_add_guardTerm]

/-- Settles O50: the good end on the message of no byte, in which DUAL leaves the primary digest alone. -/
theorem shake64OfEmptyMessage : Obligations.Shake64OfEmptyMessage := by
  intro s dual hl
  have ht := (exec_shake64 dual s).trans
    (hashCommand_good (.inl hl) (msg := []) (by simp [hl]) fun k b hk => by simp at hk)
  refine ⟨_, _, ht, by simp [messageReads], rfl, ?_⟩
  rw [answer64_digest, final64, shake64Lanes_lane0 _ _ _ (by simp [hl]), hl, lane64Reference_empty]

/-! ## DUAL (43_shake64.md R143) -/

/-- The faults come before the good response, so what two good responses share the two commands' responses share. -/
theorem hashResponse_congr {α : Type} (field : Response → α) {answer answer' : List Byte → Response}
    (h : ∀ msg, field (answer msg) = field (answer' msg)) (q : Request) (r : ReadResult) :
    field (hashResponse answer q r) = field (hashResponse answer' q r) := by
  unfold hashResponse
  split
  case isTrue => rfl
  case isFalse =>
    split
    case h_1 => rfl
    case h_2 => exact h r.bytes

/-- The DUAL phase writes the temporary of the second digest and no other register. -/
theorem phaseStep_dual (c : Config) {s : State} (hp : s.phase = .dual)
    (hd : decode s.regs.captured.cmd = .ok (.shake64 true)) :
    phaseStep c s = .next (s.advance (.shake64 true) { s.regs with d2 := dual64 c s.regs.s64 }) := by
  have hwork : hashWork c (.shake64 true) s.regs .dual =
      .read 0 fun _ => { s.regs with d2 := dual64 c s.regs.s64 } := rfl
  rw [phaseStep_hash c hd rfl, hp, hwork, State.perform, State.readPhase_zero]

/-- Settles O51: the two commands' responses come from the same reads; the DUAL phase's one write is `d2`. -/
theorem primaryDigestIgnoresDual : Obligations.PrimaryDigestIgnoresDual := by
  refine ⟨fun s => ?_, fun s hp hcmd => ?_⟩
  · obtain ⟨t, ht, hresp⟩ := exec_shake64 false s ▸ hashCommand_response ..
    obtain ⟨t', ht', hresp'⟩ := exec_shake64 true s ▸ hashCommand_response ..
    exact ⟨t, t', _, _, ht, ht', hresp, hresp', hashResponse_congr Response.digest (by simp) _ _,
      hashResponse_congr Response.err (by simp) _ _, hashResponse_congr Response.info (by simp) _ _⟩
  · exact ⟨_, phaseStep_dual _ hp (by rw [hcmd]; rfl), rfl, rfl⟩

end Sys2Proof.Machine
end

section
/-! PROOFS. STIR (44_stir.md): its three ends, the rule R153 of its hash over byte sequences, and the empty message. -/

namespace Sys2Proof.Machine

/-! ## The command -/

/-- Settles O44: STIR is a hash command whose good response folds the rule's step over the message, and it drops no
lane. -/
theorem stirResult : Obligations.StirResult := fun s =>
  hashEnds_of_hashCommand (exec_stir s) (fun _ _ => rfl) (fun _ => rfl) ⟨dropRegs_stir_s32 .., dropRegs_stir_s64 ..⟩

/-! ## The hash over byte sequences (44_stir.md R153) -/

@[simp] theorem stirHash_nil (h : Word32) : stirHash h [] = h := rfl

@[simp] theorem stirHash_cons (h : Word32) (b : Byte) (msg : List Byte) :
    stirHash h (b :: msg) = stirHash (h * stirMultiplier + b.setWidth 32) msg := rfl

theorem stirHash_append (h : Word32) (xs ys : List Byte) :
    stirHash h (xs ++ ys) = stirHash (stirHash h xs) ys := List.foldl_append

/-- The bytes as digits in the base of the multiplier, the first the highest. -/
def stirSum (msg : List Byte) : Word32 :=
  ∑ k ∈ Finset.range msg.length, (msg.getD k 0).setWidth 32 * stirMultiplier ^ (msg.length - 1 - k)

@[simp] theorem stirSum_nil : stirSum [] = 0 := rfl

/-- The first byte is the highest digit, and every later one keeps its place. -/
theorem stirSum_cons (b : Byte) (msg : List Byte) :
    stirSum (b :: msg) = b.setWidth 32 * stirMultiplier ^ msg.length + stirSum msg := by
  rw [stirSum, List.length_cons, Finset.sum_range_succ', add_comm]
  refine congrArg₂ (· + ·) ?_ (Finset.sum_congr rfl fun k _ => ?_)
  · rw [List.getD_cons_zero, Nat.add_sub_cancel, Nat.sub_zero]
  · rw [List.getD_cons_succ, Nat.add_sub_cancel, Nat.add_comm k, Nat.sub_add_eq]

/-- The hash is the running hash and the bytes as digits, each multiplied once for every byte after it. -/
theorem stirHash_eq_sum (h : Word32) (msg : List Byte) :
    stirHash h msg = h * stirMultiplier ^ msg.length + stirSum msg := by
  induction msg generalizing h with
  | nil => simp
  | cons b msg ih => rw [stirHash_cons, ih, stirSum_cons, List.length_cons]; ring

/-- The running hash enters the result only through its own power of the multiplier. -/
theorem stirHash_affine (h : Word32) (msg : List Byte) :
    stirHash h msg = stirHash 0 msg + h * stirMultiplier ^ msg.length := by
  rw [stirHash_eq_sum h, stirHash_eq_sum 0, zero_mul, zero_add, add_comm]

/-- Settles O47: a fold over fragments, and the closed form of it, in which the running hash stands apart. -/
theorem stirChaining : Obligations.StirChaining :=
  ⟨fun h xs ys => (stirHash_append h xs ys).symm, stirHash_eq_sum, stirHash_affine⟩

/-! ## The empty message (44_stir.md R152) -/

/-- The good end on the message of no byte, which every range fits and every memory holds. -/
theorem HashEnds.of_len_zero {i : Instr} {s : State} {answer : List Byte → Response} {keeps : Regs → Regs → Prop}
    (h : HashEnds i s answer keeps) (hl : s.regs.captured.len = 0) :
    ∃ t, exec i s = .next t ∧ t.reads = s.reads ∧ t.response = some (answer []) := by
  have hholds : HoldsMessage s.mem.read s.regs.captured.addr [] := fun k b hk => by simp at hk
  obtain ⟨t, ht, hresp, hreads, -⟩ := h.good [] (.inl hl) (by simp [hl]) hholds
  exact ⟨t, ht, by simpa [messageReads] using hreads, hresp⟩

/-- Settles O48: the fold over no byte is the running hash. -/
theorem stirOfEmptyMessage : Obligations.StirOfEmptyMessage := fun s hl => (stirResult s).of_len_zero hl

end Sys2Proof.Machine
end

section
/-! PROOFS. The record of faults (60_exceptions.md R173): a step emits one response, which is recorded if it is a fault,
or none, and then the record stands as it was. -/

namespace Sys2Proof.Machine

/-- From `s` to `t` a response is emitted and recorded if it is a fault, or none is, and the record stays. -/
def RecordsFaults (s t : State) : Prop :=
  (∃ p, t.response = some p ∧ t.faulted = (s.faulted || p.err != 0)) ∨
  ((t.response = s.response ∨ t.response = none) ∧ t.faulted = s.faulted)

section
variable {s t : State}

theorem RecordsFaults.emitted {p : Response} (hp : t.response = some p)
    (hf : t.faulted = (s.faulted || p.err != 0)) : RecordsFaults s t := .inl ⟨p, hp, hf⟩

theorem RecordsFaults.silent (hp : t.response = s.response) (hf : t.faulted = s.faulted) : RecordsFaults s t :=
  .inr ⟨.inl hp, hf⟩

theorem RecordsFaults.emptied (hp : t.response = none) (hf : t.faulted = s.faulted) : RecordsFaults s t :=
  .inr ⟨.inr hp, hf⟩

theorem RecordsFaults.keeps (h : RecordsFaults s t) (hs : s.faulted = true) : t.faulted = true := by
  rcases h with ⟨p, -, hf⟩ | ⟨-, hf⟩
  · rw [hf, hs, Bool.true_or]
  · rw [hf, hs]

/-- A fault response that is on the channel, and was not before, is recorded. -/
theorem RecordsFaults.records (h : RecordsFaults s t) (hs : s.response = none) {p : Response}
    (hp : t.response = some p) (herr : p.err ≠ 0) : t.faulted = true := by
  rcases h with ⟨p', hp', hf⟩ | ⟨hresp, -⟩
  · obtain rfl : p = p' := Option.some.inj (hp.symm.trans hp')
    rw [hf, bne_iff_ne.2 herr, Bool.or_true]
  · have hnone : t.response = none := hresp.elim (fun e => e.trans hs) id
    cases hp.symm.trans hnone

/-! ## The hasher -/

theorem phaseStep_recordsFaults (h : phaseStep Config.build s = .next t) : RecordsFaults s t := by
  rcases phaseStep_cases h with ⟨pairs, p, r, rfl⟩ | ⟨i, pairs, r, -, rfl⟩
  · exact .emitted rfl rfl
  · exact .silent rfl rfl

theorem runCommand_recordsFaults {q : Request} (h : runCommand s q = .next t) : RecordsFaults s t := by
  obtain ⟨pairs, p, r, rfl⟩ := runCommand_emits h
  exact .emitted rfl rfl

theorem accept_recordsFaults (s : State) (q : Request) : RecordsFaults s (s.accept q) := by
  rcases accept_cases s q with ⟨-, e⟩ | ⟨i, -, -, -, e⟩ | ⟨i, -, -, e⟩ <;> rw [e]
  · exact .emitted rfl rfl
  · exact .emitted rfl rfl
  · exact .silent rfl rfl

theorem hasherMove_recordsFaults {fine : Bool} (h : hasherMove fine s = .next t) : RecordsFaults s t := by
  rcases hasherMove_cases fine s with ⟨-, e⟩ | ⟨-, -, q, -, e⟩ | ⟨-, -, e⟩ <;> rw [e] at h
  · exact phaseStep_recordsFaults h
  · cases fine with
    | true => injection h with h; exact h ▸ accept_recordsFaults s q
    | false => exact runCommand_recordsFaults h
  · injection h with h
    exact h ▸ .silent rfl rfl

/-! ## Every step -/

theorem step_recordsFaults (h : step s = .next t) : RecordsFaults s t := by
  rcases step_cases h with ⟨fine, rest, -, hm⟩ | ⟨q, rest, -, -, rfl⟩ | ⟨p, rest, -, -, rfl⟩ | ⟨rest, -, rfl⟩ |
    ⟨a, b, rest, -, rfl⟩ | ⟨a, rest, -, rfl⟩
  · exact hasherMove_recordsFaults (s := { s with turns := rest }) hm
  · exact .silent rfl rfl
  · exact .emptied rfl rfl
  · exact .emptied rfl rfl
  · exact .silent (by simp) (by simp)
  · exact .silent (by simp) (by simp)

theorem State.finalRun_of_faulted (h : s.faulted = true) : s.finalRun = false := by
  simp [State.finalRun, h]

end

/-- Settles O18: every step records the fault it emits and loses none. -/
theorem faultStaysRecorded : Obligations.FaultStaysRecorded := by
  refine ⟨fun s t h hs => ?_, fun s t p h hs hp herr => (step_recordsFaults h).records hs hp herr⟩
  have ht := (step_recordsFaults h).keeps hs
  exact ⟨ht, State.finalRun_of_faulted ht⟩

end Sys2Proof.Machine
end

section
/-! PROOFS. The order of the checks (60_exceptions.md R160 to R166): what a hash command responds under each of them,
and that a command none of them stops responds with a digest. -/

namespace Sys2Proof.Machine

/-! ## Good responses (30_encoding.md R68) -/

/-- A response that reports no fault: it has a digest and no fault information. -/
structure Response.IsGood (p : Response) : Prop where
  err : p.err = 0
  digest : p.digest ≠ none
  info : p.info = none

theorem Response.good_isGood (d : Word64) : (Response.good d).IsGood :=
  ⟨rfl, Option.some_ne_none d, rfl⟩

theorem answer64_isGood (c : Config) (dual : Bool) (s : Lanes64) : (answer64 c dual s).IsGood where
  err := answer64_err c dual s
  digest := answer64_digest c dual s ▸ Option.some_ne_none _
  info := answer64_info c dual s

/-- A primitive command cannot fault (60_exceptions.md R161). -/
theorem exec_primitive_good {i : Instr} (hf : i.format ≠ .h) (s : State) :
    ∃ d, exec i s = .next (s.respond i (.good d)) := by
  cases i with
  | shake32 => exact absurd rfl hf
  | shake64 dual => exact absurd rfl hf
  | stir => exact absurd rfl hf
  | _ => exact ⟨_, rfl⟩

/-- A command of format H is a hash command, and its answer to a whole message is good. -/
theorem exec_hash_good {i : Instr} (hf : i.format = .h) (s : State) :
    ∃ answer : List Byte → Response, (∀ msg, (answer msg).IsGood) ∧ exec i s = hashCommand i s answer := by
  cases i with
  | shake32 => exact ⟨_, fun _ => Response.good_isGood _, exec_shake32 s⟩
  | shake64 dual => exact ⟨_, fun _ => answer64_isGood .., exec_shake64 dual s⟩
  | stir => exact ⟨_, fun _ => Response.good_isGood _, exec_stir s⟩
  | _ => cases hf

/-! ## Where a run of reads stops -/

section
variable {f : Word64 → Option Byte} {a : Word64} {n : Nat}

/-- The first address that does not answer is the one refused. -/
theorem readBytes_refused_of_first {k : Nat} (hk : k < n)
    (hlow : ∀ j, j < k → f (a + BitVec.ofNat 64 j) ≠ none) (hnone : f (a + BitVec.ofNat 64 k) = none) :
    (readBytes f a n).refused = some (a + BitVec.ofNat 64 k) := by
  cases hr : (readBytes f a n).refused with
  | none => exact absurd hnone (readBytes_all hr k hk)
  | some x =>
    obtain ⟨k', -, rfl, hnone', hlow'⟩ := readBytes_refused hr
    rcases Nat.lt_trichotomy k k' with hlt | rfl | hgt
    · exact absurd hnone (hlow' k hlt)
    · rfl
    · exact absurd hnone' (hlow k' hgt)

theorem readBytes_refused_none (h : ∀ k, k < n → f (a + BitVec.ofNat 64 k) ≠ none) :
    (readBytes f a n).refused = none := by
  refine Option.eq_none_iff_forall_ne_some.2 fun x hr => ?_
  obtain ⟨k, hk, rfl, hnone, -⟩ := readBytes_refused hr
  exact h k hk hnone

end

/-! ## The response under each check -/

section
variable {answer : List Byte → Response} {q : Request} {r : ReadResult}

theorem hashResponse_wraps (h : ¬ rangeFits q) : hashResponse answer q r = .fault .addrWrap q.addr :=
  if_pos (by simpa using mt addrWraps_eq_false_iff.1 h)

theorem hashResponse_refused (h : rangeFits q) {x : Word64} (hr : r.refused = some x) :
    hashResponse answer q r = .fault .msgAccessFault x := by
  simp [hashResponse, addrWraps_eq_false_iff.2 h, hr]

theorem hashResponse_good (h : rangeFits q) (hr : r.refused = none) : hashResponse answer q r = answer r.bytes := by
  simp [hashResponse, addrWraps_eq_false_iff.2 h, hr]

end

/-- A hash command on a captured request ends idle, with the response its request and reads decide. -/
theorem exec_hash_response {i : Instr} (hf : i.format = .h) (s : State) (q : Request) :
    ∃ answer : List Byte → Response, (∀ msg, (answer msg).IsGood) ∧
      ∃ t, exec i (s.capture q) = .next t ∧ t.phase = .idle ∧
        t.response = some (hashResponse answer q (s.readMessage q)) := by
  obtain ⟨answer, hgood, he⟩ := exec_hash_good hf (s.capture q)
  obtain ⟨t, ht, hp⟩ := hashCommand_response i (s.capture q) answer
  have ht := he.trans ht
  exact ⟨answer, hgood, t, ht, (exec_frame ht).idle, hp⟩

/-- Settles O19: a reserved byte is answered before any command runs, a primitive has no check left, and a hash
command's response is decided by the range and then by the reads. -/
theorem faultPriority : Obligations.FaultPriority := by
  intro s q hr
  rw [step_of_ready hr]
  cases hd : decode q.cmd with
  | error e =>
    exact ⟨(s.capture q).raiseIllegal q.cmd, _, by rw [runCommand, hd], rfl, rfl, fun _ => ⟨rfl, rfl⟩, nofun, nofun,
      nofun⟩
  | ok i =>
    rw [runCommand_of_decode s hd]
    by_cases hf : i.format = .h
    · obtain ⟨answer, hgood, t, ht, hidle, hp⟩ := exec_hash_response hf s q
      refine ⟨t, _, ht, hp, hidle, fun hnot => absurd rfl (hnot i), ?wraps, ?refused, ?good⟩
      case wraps =>
        intro j _ _ hwraps
        rw [hashResponse_wraps hwraps]
        exact ⟨rfl, rfl⟩
      case refused =>
        intro j k _ _ hfits hk hlow hnone
        have hstop : (s.readMessage q).refused = some (q.addr + BitVec.ofNat 64 k) :=
          readBytes_refused_of_first hk hlow hnone
        rw [hashResponse_refused hfits hstop]
        exact ⟨rfl, rfl⟩
      case good =>
        rintro j ⟨⟩ hread
        obtain ⟨hfits, hall⟩ := hread hf
        have hwhole : (s.readMessage q).refused = none := readBytes_refused_none hall
        rw [hashResponse_good hfits hwhole]
        obtain ⟨herr, hdigest, hinfo⟩ := hgood (s.readMessage q).bytes
        exact ⟨herr, hdigest, hinfo⟩
    · obtain ⟨d, he⟩ := exec_primitive_good hf (s.capture q)
      refine ⟨_, _, he, rfl, rfl, fun hnot => absurd rfl (hnot i), ?_, ?_, ?_⟩
      · rintro j ⟨⟩ hj
        exact absurd hj hf
      · rintro j k ⟨⟩ hj
        exact absurd hj hf
      · intro j _ _
        exact ⟨rfl, Option.some_ne_none d, rfl⟩

end Sys2Proof.Machine
end

section
/-! PROOFS. Reset, and the moves that are not enabled (70_reset_and_hazards.md R180, R182, R186;
93_implementation_defined.md U14): the hasher moves alike whatever host moves are listed, so a blocked one changes
nothing by waiting. -/

namespace Sys2Proof.Machine

/-! ## The move of an idle hasher (10_state.md R30) -/

section
variable {s : State}

theorem step_of_no_turn (h : s.turns = []) : step s = hasherMove false s := by
  simp only [step, h]

theorem hasherMove_ready {q : Request} (hp : s.phase = .idle) (hr : s.response = none) (hq : s.request = some q)
    (fine : Bool) : hasherMove fine s = if fine then .next (s.accept q) else runCommand s q := by
  simp [hasherMove, hp, hr, hq]

/-- With a response waiting, or no request, an idle hasher does nothing (log 4). -/
theorem hasherMove_rests (hp : s.phase = .idle) (h : s.response ≠ none ∨ s.request = none) (fine : Bool) :
    hasherMove fine s = .next s := by
  rcases hasherMove_cases fine s with ⟨hb, -⟩ | ⟨-, hr, q, hq, -⟩ | ⟨-, -, e⟩
  · exact absurd hp hb
  · rcases h with h | h
    · exact absurd hr h
    · cases hq.symm.trans h
  · exact e

end

/-! ## The hasher does not look at the moves to come -/

section
variable {s t : State} {i : Instr} {q : Request} {ts : List Turn}

theorem hashCommand_withTurns {answer : List Byte → Response} (h : hashCommand i s answer = .next t) :
    hashCommand i { s with turns := ts } answer = .next { t with turns := ts } := by
  rcases hashCommand_cases i s answer with ⟨hw, e⟩ | ⟨hw, x, hr, e⟩ | ⟨hw, hr, e⟩ <;>
    obtain rfl := Host.Outcome.next.inj (e.symm.trans h)
  · simp only [hashCommand, hw]; rfl
  · simp only [hashCommand, hw, hr]; rfl
  · simp only [hashCommand, hw, hr]; rfl

theorem exec_withTurns (h : exec i s = .next t) :
    exec i { s with turns := ts } = .next { t with turns := ts } := by
  by_cases hf : i.format = .h
  · cases i with
    | shake32 => exact hashCommand_withTurns (exec_shake32 s ▸ h)
    | shake64 dual => exact hashCommand_withTurns (exec_shake64 dual s ▸ h)
    | stir => exact hashCommand_withTurns (exec_stir s ▸ h)
    | _ => cases hf
  · obtain ⟨answer, hexec⟩ := exec_primitive hf
    obtain rfl := Host.Outcome.next.inj ((hexec s).symm.trans h)
    exact hexec _

theorem runCommand_withTurns (h : runCommand s q = .next t) :
    runCommand { s with turns := ts } q = .next { t with turns := ts } := by
  cases hd : decode q.cmd with
  | error e =>
    simp only [runCommand, hd] at h ⊢
    obtain rfl := Host.Outcome.next.inj h
    rfl
  | ok i =>
    rw [runCommand_of_decode _ hd] at h ⊢
    exact exec_withTurns h

theorem phaseStep_withTurns (h : phaseStep Config.build s = .next t) :
    phaseStep Config.build { s with turns := ts } = .next { t with turns := ts } := by
  cases hd : decode s.regs.captured.cmd with
  | error e => simp [phaseStep, hd] at h
  | ok i =>
    by_cases hf : i.format = .h
    · cases hw : hashWork Config.build i s.regs s.phase with
      | absent => rw [phaseStep_hash _ hd hf, hw] at h; cases h
      | answer p =>
        rw [phaseStep_hash _ hd hf, hw] at h
        obtain rfl := Host.Outcome.next.inj h
        rw [phaseStep_hash Config.build (s := { s with turns := ts }) hd hf, hw]
        rfl
      | read n write =>
        rw [phaseStep_hash _ hd hf, hw] at h
        obtain rfl := Host.Outcome.next.inj h
        exact phaseStep_read hd hf hw ts
    · rw [phaseStep_primitive hd hf] at h
      rw [phaseStep_primitive (s := { s with turns := ts }) hd hf]
      split at h
      case isTrue hp => rw [if_pos hp, exec_withTurns h]
      case isFalse => cases h

/-- The hasher makes the same move, whatever moves are listed after it. -/
theorem hasherMove_withTurns {fine : Bool} (h : hasherMove fine s = .next t) :
    hasherMove fine { s with turns := ts } = .next { t with turns := ts } := by
  rcases hasherMove_cases fine s with ⟨hb, e⟩ | ⟨hp, hr, q, hq, e⟩ | ⟨hp, hnone, e⟩ <;> rw [e] at h
  · exact (hasherMove_busy (s := { s with turns := ts }) hb fine).trans (phaseStep_withTurns h)
  · rw [hasherMove_ready (s := { s with turns := ts }) hp hr hq]
    cases fine with
    | true =>
      obtain rfl := Host.Outcome.next.inj h
      exact congrArg _ (State.accept_turns q)
    | false => exact runCommand_withTurns h
  · obtain rfl := Host.Outcome.next.inj h
    exact hasherMove_rests (s := { s with turns := ts }) hp hnone fine

/-- No move of the hasher takes a response. -/
theorem hasherMove_received {fine : Bool} (h : hasherMove fine s = .next t) : t.received = s.received := by
  rcases hasherMove_cases fine s with ⟨-, e⟩ | ⟨-, -, q, -, e⟩ | ⟨-, -, e⟩ <;> rw [e] at h
  · rcases phaseStep_cases h with ⟨_, _, _, rfl⟩ | ⟨_, _, _, -, rfl⟩ <;> rfl
  · cases fine with
    | true =>
      obtain rfl := Host.Outcome.next.inj h
      rcases accept_cases s q with ⟨-, e⟩ | ⟨i, -, -, -, e⟩ | ⟨i, -, -, e⟩ <;> rw [e] <;> rfl
    | false => obtain ⟨_, _, _, rfl⟩ := runCommand_emits h; rfl
  · obtain rfl := Host.Outcome.next.inj h
    rfl

end

/-! ## Moves that are not enabled (70_reset_and_hazards.md R186) -/

/-- Settles O9: with no move listed the hasher moves, and it rests. -/
theorem nothingEnabledChangesNothing : Obligations.NothingEnabledChangesNothing := by
  intro s ht hp hnone
  rw [step_of_no_turn ht]
  exact hasherMove_rests hp hnone false

section
variable {s : State} {rest : List Turn}

theorem step_of_present_blocked {q : Request} (ht : s.turns = .present q :: rest) (hq : s.request ≠ none) :
    step s = hasherMove false s := by
  obtain ⟨q', hq'⟩ := Option.ne_none_iff_exists'.1 hq
  simp only [step, ht, turnMove, hq']

theorem step_of_take_blocked (ht : s.turns = .take :: rest) (hp : s.response = none) :
    step s = hasherMove false s := by
  simp only [step, ht, turnMove, hp]

/-- A step that is the hasher's move on the whole list is the step with no move listed, but for the list. -/
theorem MachineInv.step_blocked (h : MachineInv s) (hs : step s = Machine.hasherMove false s) :
    ∃ t, step { s with turns := [] } = .next t ∧ step s = .next { t with turns := s.turns } ∧
      t.received = s.received := by
  obtain ⟨t, ht⟩ := (h.withTurns []).hasherMove_next false
  have hsame : Machine.hasherMove false s = .next { t with turns := s.turns } :=
    hasherMove_withTurns (s := { s with turns := [] }) ht
  exact ⟨t, ht, hs.trans hsame, hasherMove_received (s := { s with turns := [] }) ht⟩

end

/-- Settles O11: either blocked move leaves the step to the hasher, who does not look at the list. -/
theorem blockedHostMovesStay : Obligations.BlockedHostMovesStay := fun _ h =>
  ⟨fun _ _ ht hq => ht ▸ h.step_blocked (step_of_present_blocked ht hq),
    fun _ ht hp => ht ▸ h.step_blocked (step_of_take_blocked ht hp)⟩

/-! ## Reset (70_reset_and_hazards.md R180, R182) -/

theorem step_of_reset {s : State} {rest : List Turn} (h : s.turns = .reset :: rest) :
    step s = .next (State.applyReset { s with turns := rest }) := by
  simp only [step, h, turnMove]

/-- Settles O13: reset is made as it stands in every state, and `State.applyReset` leaves the records and memory. -/
theorem resetAbortsTheCommand : Obligations.ResetAbortsTheCommand := fun _ _ h =>
  ⟨_, step_of_reset h, rfl, rfl, rfl, rfl, rfl, rfl, rfl, fun _ => rfl⟩

end Sys2Proof.Machine
end
